-- ==== Sys2Proof/Word.lean ====
section
/-! DEFINITION. The word types of the UZ6420: what crosses its four connections as bytes, and the two small
numbers (station numbers and intent ids) that wrap or are bounded by the manual itself. -/

namespace Sys2Proof

/-- One byte on the bus, at the terminal port or in the configuration memory (chapter 11). -/
abbrev Byte := BitVec 8

/-- A vehicle's tag: 32 bits, compared and never computed with (R5). -/
abbrev Tag := BitVec 32

/-- A station number, 0..7 (R107). -/
abbrev StationNo := Fin 8

/-- An intent id, 0..15; counting 15 up to 0 (R89). -/
abbrev IntentId := Fin 16

end Sys2Proof
end

