-- ==== Sys2Proof/Config.lean ====
section
/-! DEFINITION. What every UZ6420 fixes (capacities, codes, link addresses) and the free values of the model. -/

namespace Sys2Proof.Config

/-- Records in the pool (R13). -/
abbrev poolSize : Nat := 512

/-- Records one lane may hold (R13). -/
abbrev laneCap : Nat := 40

/-- Entries of the intake queue (R21). -/
abbrev intakeCap : Nat := 8

/-- Own intents the table holds (R87, R88). -/
abbrev intentCap : Nat := 4

/-- Intents one peer record holds (R124). -/
abbrev recordedCap : Nat := 4

/-- A status report is admitted below this count (R168). -/
abbrev statusBelow : Nat := 24

/-- The gate, and the wait-limit refusals, need fewer reports than this (R28, R34, R35). -/
abbrev decisionBelow : Nat := 28

/-- Places of a plan and of the image's LANES section (R142, R174). -/
abbrev planPlaces : Nat := 24

/-- Tries of the image read (R173). -/
abbrev maxTries : Nat := 4

/-- Wait between two tries, in ms (R173). -/
abbrev retryWait : Nat := 20

/-- Bytes of the image, and of its header (section 11.4). -/
abbrev imageLength : Nat := 830
abbrev headerLength : Nat := 7

/-- What the port shifts out after a reply, and in place of one (section 11.2). -/
abbrev filler : Byte := 0xFF
abbrev notReadyMarker : Byte := 0xA5

/-- The address bytes of the configuration memory, 0x56 with the write and the read bit (R173). -/
abbrev memoryWrite : Byte := 0xAC
abbrev memoryRead : Byte := 0xAD

/-- Idle gap of the line in bit times (R106, R111). -/
abbrev idleGap : Nat := 16

/-- FREE VALUES: the byte of a draw at an index. Each use takes the state's next draw, so that no two uses are tied to each
other; nothing constrains a value. They stand for the bytes of an image read that the command IMAGE_LOAD_END does not name (log
entry 6) and for the bytes of an absent pending entry that the manual does not state (log entry 17). -/
opaque freeByte (draw index : Nat) : Byte

end Sys2Proof.Config
end

