-- ==== Sys2Proof/Syntax.lean ====
section
/-! DEFINITION. The commands: one constructor of `Instr` per row of spec/opcode_table.json, with the operands the row's
rule gives it. A terminal request carries its fields as the bytes that were clocked in (chapter 11.2), so that the
owning block judges ranges and codes; a received frame carries its fields as numbers (chapter 11.1). -/

namespace Sys2Proof

/-- A unit record as submitted, 15 or 16 bytes; `preferred` is present exactly when 16 bytes came (section 11.2, R182). -/
structure RawUnit where
  tag : Tag
  kind : Byte
  length : Byte
  width : Byte
  height : Byte
  mass : BitVec 16
  axle : Byte
  port : Byte
  group : Byte
  power : Byte
  reading : Byte
  preferred : Option Byte
deriving DecidableEq, Repr

/-- A plan entry as submitted, 3 bytes (section 11.2). -/
structure RawEntry where
  state : Byte
  reserved : Byte
  profile : Byte
deriving DecidableEq, Repr

/-- One value for each of the quantities M, T, Lo and V (R68). -/
structure Quad where
  m : Int
  t : Int
  l : Int
  v : Int
deriving DecidableEq, Repr

/-- No quantity at all. -/
def Quad.zero : Quad := ⟨0, 0, 0, 0⟩

/-- What an intent does to its vehicle (R87). -/
inductive Direction where
  | place
  | remove
deriving DecidableEq, Repr

/-- An intent entry of a notice: id, direction and four deltas (R107). -/
structure IntentEntry where
  id : IntentId
  dir : Direction
  delta : Quad
deriving DecidableEq, Repr

/-- What is known of a received frame beside its body: the sender's number, the sequence number, and whether the station
was in a state that hands frames over at the falling edge of the frame's first start bit (R107, R122). -/
structure FrameHead where
  station : StationNo
  seq : Byte
  inService : Bool
deriving DecidableEq, Repr

/-- One byte received from the line, with whether its stop bit was recessive (R106, R108). -/
structure RxByte where
  value : Byte
  stop : Bool
deriving DecidableEq, Repr

/-- The byte of a try that the configuration memory left unacknowledged (R173). -/
inductive Unacknowledged where
  | writeAddress
  | memoryHigh
  | memoryLow
  | readAddress
deriving DecidableEq, Repr

/-- The commands and events of the part, in the order of spec/opcode_table.json. -/
inductive Instr where
  /-- RESET (R172): the RESET line is asserted, or power comes on. -/
  | reset
  /-- LEAVE_RESET (R172): RESET is negated, with the levels then on PANEL and SWITCH (true: asserted). -/
  | leaveReset (panel switch : Bool)
  /-- RDY_FIRST_TICK (R157). -/
  | rdyFirstTick
  /-- LOAD_TRY_FAILED (R173), with the byte left unacknowledged. -/
  | loadTryFailed (lost : Unacknowledged)
  /-- LOAD_RETRY (R173). -/
  | loadRetry
  /-- IMAGE_LOAD_END (R174): the bytes of the configuration memory from address 0. -/
  | imageLoadEnd (image : List Byte)
  /-- LISTEN_EXPIRY (R177). -/
  | listenExpiry
  /-- NULL (R159). -/
  | null
  /-- BAD_REQUEST (R158): the whole bytes of a selection that form no well-framed request. -/
  | badRequest (bytes : List Byte)
  /-- NOT_READY_SELECTION (R157). -/
  | notReadySelection
  /-- READ_STATUS (R161). -/
  | readStatus
  /-- READ_SHIP_VIEW (R162). -/
  | readShipView
  /-- READ_LANE (R163). -/
  | readLane (lane first : Byte)
  /-- READ_UNIT (R164). -/
  | readUnit (tag : Tag)
  /-- READ_PEER (R165). -/
  | readPeer (number : Byte)
  /-- READ_INTAKE (R166). -/
  | readIntake
  /-- READ_PLAN (R167). -/
  | readPlan (plan first : Byte)
  /-- READ_REPORT (R169). -/
  | readReport
  /-- SUBMIT_ARRIVAL (R23). -/
  | submitArrival (unit : RawUnit)
  /-- SUBMIT_DEPARTURE (R26). -/
  | submitDeparture (tag : Tag)
  /-- WITHDRAW (R27). -/
  | withdraw (tag : Tag)
  /-- REPORT_PARKED (R96). -/
  | reportParked (tag : Tag)
  /-- REPORT_ABANDONED (R97). -/
  | reportAbandoned (tag : Tag)
  /-- REPORT_DEPARTED (R98): REPORT DEPARTED with bit 0 of its force flag clear. -/
  | reportDeparted (tag : Tag)
  /-- FORCED_DEPARTURE (R100): REPORT DEPARTED with bit 0 of its force flag set. -/
  | forcedDeparture (tag : Tag)
  /-- REPORT_STAYED (R99). -/
  | reportStayed (tag : Tag)
  /-- SET_TRIM_WINDOW (R71): minimum and maximum, 6 bytes signed each. -/
  | setTrimWindow (minimum maximum : BitVec 48)
  /-- LOAD_PLAN_ACTIVE (R145): LOAD PLAN with target 0. -/
  | loadPlanActive (first dflt : Byte) (entries : List RawEntry)
  /-- LOAD_PLAN_STAGED (R145): LOAD PLAN with any other target code. -/
  | loadPlanStaged (target first dflt : Byte) (entries : List RawEntry)
  /-- SELECT_STAGED (R146). -/
  | selectStaged (target : Byte)
  /-- SWITCH_PLAN (R147). -/
  | switchPlan (target : Byte)
  /-- SWITCH_EDGE (R147): a sample of SWITCH at the asserted level. -/
  | switchEdge
  /-- BLOCK_LANE (R152). -/
  | blockLane (lane : Byte)
  /-- UNBLOCK_LANE (R152). -/
  | unblockLane (lane : Byte)
  /-- BEGIN_RESTORE (R177). -/
  | beginRestore
  /-- RESTORE_UNIT (R178). -/
  | restoreUnit (lane : Byte) (offset : BitVec 16) (unit : RawUnit)
  /-- END_RESTORE (R179). -/
  | endRestore
  /-- RESTART (R172), with the levels on PANEL and SWITCH as the part leaves reset at once. -/
  | restart (panel switch : Bool)
  /-- PANEL_CHANGE (R4): a sample of PANEL at the given level (true: LOWERED). -/
  | panelChange (lowered : Bool)
  /-- EVALUATE_ARRIVAL (R39). -/
  | evaluateArrival
  /-- EVALUATE_DEPARTURE (R61). -/
  | evaluateDeparture
  /-- WAIT_LIMIT_EXPIRY (R34) of the entry with the given tag. -/
  | waitLimitExpiry (tag : Tag)
  /-- LIFETIME_EXPIRY (R94) of the own intent with the given id. -/
  | lifetimeExpiry (id : IntentId)
  /-- HEARTBEAT_EXPIRY (R119). -/
  | heartbeatExpiry
  /-- SILENCE_EXPIRY (R133) of the peer with the given number. -/
  | silenceExpiry (station : StationNo)
  /-- ATTEMPT_START (R111), with the bit times the line has now been idle since the end of line activity. -/
  | attemptStart (idleBits : Nat)
  /-- COLLISION (R111). -/
  | collision
  /-- ATTEMPT_COMPLETE (R116). -/
  | attemptComplete
  /-- INVALID_FRAME (R108): the bytes of a received frame that fails a validity check. -/
  | invalidFrame (bytes : List RxByte)
  /-- RECEIVE_SUMMARY (R127): deck sums, parked count and intent entries. -/
  | receiveSummary (head : FrameHead) (sums : Quad) (parked : Nat) (entries : List IntentEntry)
  /-- RECEIVE_INTENT (R130). -/
  | receiveIntent (head : FrameHead) (entry : IntentEntry)
  /-- RECEIVE_SETTLE (R131). -/
  | receiveSettle (head : FrameHead) (id : IntentId) (sums : Quad)
  /-- RECEIVE_RETRACT (R131). -/
  | receiveRetract (head : FrameHead) (id : IntentId)
  /-- SWITCH_NEGATED (R147): a sample of SWITCH at the negated level. -/
  | switchNegated
  /-- SELECTION_BEGIN (R157). -/
  | selectionBegin
  /-- LINE_IDLE (R122). -/
  | lineIdle
deriving DecidableEq, Repr

end Sys2Proof
end

