-- ==== Sys2Proof/Machine/State.lean ====
section
/-! DEFINITION. The state of one UZ6420 station, block by block as the manual's table of functional blocks has it, and its
value right after reset. Output lines (ATTN, ALARM), the evaluation gate, U, free lengths, the deck record mass, the free
pool count and both ship views are not stored by the part and are functions of this state (R10, R19, R28, R75, R84, R168). -/

namespace Sys2Proof.Machine

/-- No command of the part stops the machine: FAULTED is a station state, not a fault of the machine, and every request
that is turned away is answered. So there is no fault (DEDUCED, log entry 1). -/
inductive Fault where
deriving DecidableEq, Repr

/-- Why a command has no meaning here. -/
inductive Refusal where
  /-- Raised by `exec` alone, for a command that has no meaning yet; safe. No arm of this model raises it. -/
  | notModelled (mnemonic : String)
deriving DecidableEq, Repr

/-! ### The configuration image as the blocks hold it (R1, R2, R69, R70, R72, R123, R141, R142, R174) -/

inductive OrderKind where
  | through
  | blind
deriving DecidableEq, Repr

inductive SubstMode where
  | hold
  | bound
  | freeze
deriving DecidableEq, Repr

inductive SwitchMode where
  | direct
  | line
  | request
deriving DecidableEq, Repr

inductive UnitKind where
  | car
  | van
  | lorry
  | trailer
  | coach
deriving DecidableEq, Repr

/-- A lane descriptor (R1). -/
structure LaneDesc where
  xStop : Nat
  len : Nat
  y : Int
  z : Nat
  width : Nat
  high : Nat
  low : Nat
  axle : Nat
  order : OrderKind
  powered : Nat
deriving DecidableEq, Repr

/-- The bounds of one station number, lower and upper per quantity; the lower bound of M is 0 (R72). -/
structure Bounds where
  lo : Quad
  hi : Quad
deriving DecidableEq, Repr

/-- A profile (R141); the two sets are bitmaps as in the image (bit of a kind code, bit of a group number). -/
structure Profile where
  kinds : Byte
  groups : Byte
  unverified : Bool
  threshold : Nat
  wH : Nat
  wT : Nat
  wO : Nat
  wF : Nat
deriving DecidableEq, Repr

/-- A lane entry of a plan (R142): `reserved = none` is ANY and `profile = none` is DEFAULT. -/
structure PlanEntry where
  closed : Bool
  reserved : Option Nat
  profile : Option Nat
deriving DecidableEq, Repr

/-- A plan: 24 entries and the deck default profile (R142). -/
structure Plan where
  entries : List PlanEntry
  dflt : Nat
deriving DecidableEq, Repr

/-- The settings of a configuration image that passed every check, kept as read until the next reset (R175). -/
structure Image where
  stationNo : StationNo
  laneCount : Nat
  gap : Nat
  xMid : Nat
  dMax : Nat
  waitLimit : Nat
  lifetime : Nat
  heartbeat : Nat
  silence : Nat
  expected : Byte
  subst : SubstMode
  switchMode : SwitchMode
  openDrain : Bool
  activeHigh : Bool
  lanes : List LaneDesc
  apart : Nat
  matrix : List Byte
  mMax : Int
  tMax : Int
  vMax : Int
  wMin : Int
  wMax : Int
  bounds : List Bounds
  profiles : List Profile
  plan : Plan
deriving DecidableEq, Repr

/-! ### Station control and the image loader (R171, R173, R174) -/

inductive StationState where
  | loading
  | faulted
  | listening
  | restoring
  | joined
  | quiet
deriving DecidableEq, Repr

inductive FaultCode where
  | noImage
  | badMarker
  | badVersion
  | badLength
  | badCheck
  | badRange (imageSection : Nat)
deriving DecidableEq, Repr

/-- Where the image load stands: not running, a try in progress, or waiting between tries for so many ms (R173). -/
inductive Loader where
  | off
  | trying
  | waiting (ms : Nat)
deriving DecidableEq, Repr

/-- What the loader drives on the I2C link (R173): clock pulses with the data line released, start and stop conditions, a
byte sent, and bytes taken with and without an acknowledge. -/
inductive LinkOp where
  | pulses (count : Nat)
  | start
  | stop
  | send (byte : Byte)
  | takeAcked (count : Nat)
  | takeLast
deriving DecidableEq, Repr

structure Control where
  /-- The part is held in reset (R172). -/
  held : Bool
  /-- The 1 ms time base has ticked since the part left reset (R157, R172). -/
  ticked : Bool
  station : StationState
  fault : Option FaultCode
  restoreMark : Bool
  /-- Listen timer: stopped, or ms run (R177). -/
  listen : Option Nat
  /-- Load try count, 0..4 (R171). -/
  tries : Nat
  loader : Loader
  /-- What the loader has driven on the link since the present or latest try began (R173). -/
  link : List LinkOp
deriving DecidableEq, Repr

/-! ### Terminal port (R156, R157) -/

/-- What the port shifts out in the selection begun last. -/
inductive DataOut where
  | released
  | reply (bytes : List Byte)
  | marker
deriving DecidableEq, Repr

structure Port where
  rdy : Bool
  /-- A selection was begun while RDY was high and its request is not yet answered. -/
  selection : Bool
  dataOut : DataOut
  pendingReply : Option (List Byte)
deriving DecidableEq, Repr

/-! ### Unit store (R3, R5 to R7, R17) -/

/-- The identity part of a unit record (R5). -/
structure UnitId where
  tag : Tag
  kind : UnitKind
  length : Nat
  width : Nat
  height : Nat
  mass : Nat
  axle : Nat
  port : Nat
  group : Nat
  power : Bool
  unverified : Bool
  preferred : Option Nat
deriving DecidableEq, Repr

inductive RecordState where
  | pending
  | parked
  | leaving
deriving DecidableEq, Repr

/-- A held unit record: identity, placement part and state (R5, R6, R7). -/
structure UnitRecord where
  unit : UnitId
  lane : Nat
  offset : Nat
  contrib : Quad
  state : RecordState
deriving DecidableEq, Repr

structure UnitStore where
  lowered : Bool
  /-- The held records; those of one lane stand in increasing order of their offset (R8). -/
  records : List UnitRecord
  /-- The deck sums M, T, Lo and V (R17). -/
  sums : Quad
deriving DecidableEq, Repr

/-! ### Intake queue (R21, R22) -/

inductive HoldReason where
  | laneState
  | profile
  | reservation
  | shipLimits
deriving DecidableEq, Repr

/-- What an entry asks for. An ARRIVAL holds its unit record until it is PLACING; then it refers to the PENDING record by
its tag and keeps no copy (R22). -/
inductive Ask where
  | arrival (unit : UnitId)
  | placedArrival (tag : Tag)
  | departure (tag : Tag)
deriving DecidableEq, Repr

inductive EntryState where
  | waiting
  | held (reason : HoldReason)
  | placing (id : IntentId)
deriving DecidableEq, Repr

structure Entry where
  ask : Ask
  state : EntryState
  /-- Wait timer, in ms since taking. -/
  timer : Nat
  expired : Bool
deriving DecidableEq, Repr

/-! ### Intent table (R87, R89) -/

inductive IntentState where
  | unannounced
  | announced (ms : Nat)
  | overdue
deriving DecidableEq, Repr

structure Intent where
  id : IntentId
  dir : Direction
  tag : Tag
  delta : Quad
  state : IntentState
deriving DecidableEq, Repr

structure IntentTable where
  open_ : List Intent
  counter : IntentId
deriving DecidableEq, Repr

/-! ### Ship view (R70, R82) -/

structure ShipView where
  /-- The trim window in force; 0 and 0 while no image is held (R85). -/
  wMin : Int
  wMax : Int
  limitExcess : Bool
deriving DecidableEq, Repr

/-! ### Bus controller (R110, R115, R117, R119, R122) -/

/-- A notice of the outbound queue. An INTENT carries its entry; the other kinds are filled in at each attempt (R114). -/
inductive Notice where
  | summary
  | intent (entry : IntentEntry)
  | settle (id : IntentId)
  | retract (id : IntentId)
deriving DecidableEq, Repr

/-- The line as the receiver knows it (R106, R108, R122): no idle line seen since reset; idle, so that the next dominant bit begins
a frame; a run that began on an idle line under way, the own attempt among them, and not yet judged; activity after a frame has been
judged, which is line activity alone until the line is idle again. -/
inductive Line where
  | unsynced
  | idle
  | running
  | judged
deriving DecidableEq, Repr

structure Bus where
  queue : List Notice
  /-- Failed attempts of the front notice, 0..255 (R110). -/
  attempts : Nat
  /-- The front notice's sequence number, once its first attempt has begun (R115). -/
  frontSeq : Option Byte
  refresh : Bool
  /-- The bytes of the frame in an attempt, as read at the attempt's start (R114). -/
  sending : Option (List Byte)
  counter : Byte
  /-- Heartbeat timer: stopped, or ms run (R119). -/
  heartbeat : Option Nat
  line : Line
deriving DecidableEq, Repr

/-! ### Peer table (R124, R132, R136) -/

inductive Lock where
  | unheard
  | locked
  | doubtful
  | lost
deriving DecidableEq, Repr

/-- A silence timer: never started, running for so many ms, or stopped at the silence limit (R132, R133). -/
inductive Silence where
  | stopped
  | running (ms : Nat)
  | atLimit
deriving DecidableEq, Repr

structure Peer where
  number : StationNo
  lock : Lock
  lastSeq : Option Byte
  sums : Quad
  parked : Nat
  /-- Recorded intents, oldest first. -/
  recorded : List IntentEntry
  silence : Silence
deriving DecidableEq, Repr

structure PeerTable where
  /-- One record per expected peer, in ascending station number. -/
  peers : List Peer
  /-- The stray set, without repeats. -/
  stray : List StationNo
deriving DecidableEq, Repr

/-! ### Plan store (R142, R143, R147) -/

inductive Staged where
  | a
  | b
deriving DecidableEq, Repr

/-- What the plan store holds for a lane below the lane count, beside the plans (R143). -/
structure LaneState where
  pending : Option PlanEntry
  blocked : Bool
  /-- Near-full state: true REPORTED, false ARMED. -/
  reported : Bool
deriving DecidableEq, Repr

structure PlanStore where
  active : Plan
  stagedA : Plan
  stagedB : Plan
  lanes : List LaneState
  generation : Byte
  selected : Staged
  switchLevel : Bool
deriving DecidableEq, Repr

/-! ### Report queue (section 9.4) -/

inductive RefusedReason where
  | dimensions
  | axle
  | power
  | room
  | order
  | apart
  | deckMass
  | notAtExit
  | waitLimit
deriving DecidableEq, Repr

inductive Report where
  | placed (tag : Tag) (lane offset : Nat) (id : IntentId) (list : Int)
  | departureCleared (tag : Tag) (id : IntentId)
  | refused (tag : Tag) (reason : RefusedReason)
  | overdue (tag : Tag) (id : IntentId)
  | clearanceConflict (lane count : Nat)
  | laneNearFull (lane : Nat) (free : Int)
  | planSwitched (generation : Byte) (deferred : Nat)
  | laneEntryApplied (lane : Nat) (generation : Byte)
  | limitExcess (sides : Byte)
  | excessCleared
  | peerLost (station : StationNo)
  | peerRegained (station : StationNo)
  | strayStation (station : StationNo)
  | duplicateNumber (station : StationNo)
deriving DecidableEq, Repr

/-- The whole station, with the queue of commands that wait, first in, first out. -/
structure State where
  port : Port
  control : Control
  /-- The image in force, from the end of a successful load to the next reset (R175). -/
  image : Option Image
  units : UnitStore
  intake : List Entry
  intents : IntentTable
  view : ShipView
  bus : Bus
  peers : PeerTable
  plans : PlanStore
  /-- Reports held, oldest first (R168). -/
  reports : List Report
  /-- The next draw of free values (the model's own; `Config.freeByte` is applied to it). -/
  fresh : Nat
  /-- The commands that wait, first in, first out (the model's own). -/
  pending : List Instr
deriving DecidableEq, Repr

/-- A plan with nothing in it: what the plan store holds while no image is in force (R155). -/
def Plan.none : Plan := ⟨[], 0⟩

/-- The machine right after reset, still held in it (R20, R37, R86, R105, R122, R140, R155, R170, R171, R172). The PANEL
state and the SWITCH level are set from their lines as the part leaves reset; until then they stand at RAISED and negated
(DESIGN CHOICE, log entry 4). -/
def State.reset : State :=
  { port := { rdy := false, selection := false, dataOut := .released, pendingReply := none }
    control :=
      { held := true, ticked := false, station := .loading, fault := none, restoreMark := false, listen := none,
        tries := 0, loader := .off, link := [] }
    image := none
    units := { lowered := false, records := [], sums := Quad.zero }
    intake := []
    intents := { open_ := [], counter := 0 }
    view := { wMin := 0, wMax := 0, limitExcess := false }
    bus :=
      { queue := [], attempts := 0, frontSeq := none, refresh := false, sending := none, counter := 0,
        heartbeat := none, line := .unsynced }
    peers := { peers := [], stray := [] }
    plans :=
      { active := Plan.none, stagedA := Plan.none, stagedB := Plan.none, lanes := [], generation := 0,
        selected := .a, switchLevel := false }
    reports := []
    fresh := 0
    pending := [] }

end Sys2Proof.Machine
end

