-- ==== Sys2Proof/Machine/Bytes.lean ====
section
/-! DEFINITION. Fields as bytes: most significant byte first, signed fields two's complement (chapter 11), the check of
R107, and the codes of chapter 11. -/

namespace Sys2Proof.Machine

/-- The low `n` bytes of `x`, most significant first (chapter 11). -/
def beBytes : Nat → Nat → List Byte
  | 0, _ => []
  | n + 1, x => BitVec.ofNat 8 (x / 256 ^ n) :: beBytes n x

/-- A signed field of `n` bytes, two's complement (chapter 11). -/
def beInt (n : Nat) (x : Int) : List Byte := beBytes n (x % (256 ^ n : Nat)).toNat

/-- The number whose bytes, most significant first, are given. -/
def beNat (bytes : List Byte) : Nat := bytes.foldl (fun acc b => acc * 256 + b.toNat) 0

/-- The signed number whose bytes, most significant first, are given. -/
def beSigned (bytes : List Byte) : Int :=
  let x := beNat bytes
  if 2 * x < 256 ^ bytes.length then x else (x : Int) - (256 ^ bytes.length : Nat)

/-- The field of `n` bytes at an offset, unsigned. -/
def field (bytes : List Byte) (offset n : Nat) : Nat := beNat ((bytes.drop offset).take n)

/-- The field of `n` bytes at an offset, signed. -/
def fieldSigned (bytes : List Byte) (offset n : Nat) : Int := beSigned ((bytes.drop offset).take n)

/-- The single-byte field at an offset. -/
def byteField (bytes : List Byte) (offset : Nat) : Byte := bytes.getD offset 0

/-- A truth value as a byte (section 11.3). -/
def flagByte (b : Bool) : Byte := if b then 1 else 0

/-- A small number as a byte. -/
def numByte (n : Nat) : Byte := BitVec.ofNat 8 n

/-! ### The check of a frame (R107) -/

/-- One bit through the check register: polynomial x^16 + x^12 + x^5 + 1. -/
def checkShift (reg : BitVec 16) : BitVec 16 :=
  if reg.msb then (reg <<< 1) ^^^ 0x1021#16 else reg <<< 1

/-- `n` bits through the check register. -/
def checkShifts : Nat → BitVec 16 → BitVec 16
  | 0, reg => reg
  | n + 1, reg => checkShifts n (checkShift reg)

/-- One byte through the check register, most significant bit first. -/
def checkByte (reg : BitVec 16) (b : Byte) : BitVec 16 :=
  checkShifts 8 (reg ^^^ (b.setWidth 16 <<< 8))

/-- The check over the bytes of header and body, the register preset to all ones (R107). -/
def frameCheck (bytes : List Byte) : BitVec 16 := bytes.foldl checkByte 0xFFFF#16

/-! ### Codes (sections 11.1 to 11.3) -/

inductive ReplyCode where
  | done
  | taken
  | full
  | badRecord
  | duplicateTag
  | unknownTag
  | wrongState
  | wrongMode
  | badValue
  | busy
  | unavailable
  | badRequest
  | empty
deriving DecidableEq, Repr

/-- The value of a reply code (section 11.2). -/
def ReplyCode.byte : ReplyCode → Byte
  | .done => 0x00
  | .taken => 0x01
  | .full => 0x02
  | .badRecord => 0x03
  | .duplicateTag => 0x04
  | .unknownTag => 0x05
  | .wrongState => 0x06
  | .wrongMode => 0x07
  | .badValue => 0x08
  | .busy => 0x09
  | .unavailable => 0x0A
  | .badRequest => 0x0B
  | .empty => 0x0C

/-- The kind code of a notice in byte 0 of its frame (section 11.1). -/
def Notice.code : Notice → Nat
  | .intent _ => 1
  | .settle _ => 2
  | .retract _ => 3
  | .summary => 4

def UnitKind.code : UnitKind → Nat
  | .car => 0
  | .van => 1
  | .lorry => 2
  | .trailer => 3
  | .coach => 4

def OrderKind.code : OrderKind → Nat
  | .through => 0
  | .blind => 1

def RecordState.code : RecordState → Nat
  | .pending => 0
  | .parked => 1
  | .leaving => 2

def IntentState.code : IntentState → Nat
  | .unannounced => 0
  | .announced _ => 1
  | .overdue => 2

def StationState.code : StationState → Nat
  | .loading => 0
  | .faulted => 1
  | .listening => 2
  | .restoring => 3
  | .joined => 4
  | .quiet => 5

def FaultCode.code : FaultCode → Nat
  | .noImage => 1
  | .badMarker => 2
  | .badVersion => 3
  | .badLength => 4
  | .badCheck => 5
  | .badRange _ => 6

/-- The section a fault code names: 1..7 for BAD_RANGE, 0 otherwise (section 11.3). -/
def FaultCode.sectionCode : FaultCode → Nat
  | .badRange n => n
  | _ => 0

def SubstMode.code : SubstMode → Nat
  | .hold => 0
  | .bound => 1
  | .freeze => 2

def SwitchMode.code : SwitchMode → Nat
  | .direct => 0
  | .line => 1
  | .request => 2

def Lock.code : Lock → Nat
  | .unheard => 0
  | .locked => 1
  | .doubtful => 2
  | .lost => 3

def HoldReason.code : HoldReason → Nat
  | .laneState => 1
  | .profile => 2
  | .reservation => 3
  | .shipLimits => 4

def RefusedReason.code : RefusedReason → Nat
  | .dimensions => 1
  | .axle => 2
  | .power => 3
  | .room => 4
  | .order => 5
  | .apart => 6
  | .deckMass => 7
  | .notAtExit => 8
  | .waitLimit => 9

def Staged.code : Staged → Nat
  | .a => 1
  | .b => 2

/-- Id and direction as they stand in an intent entry: id in bits 3..0, direction in bit 4 (section 11.1). -/
def idDirByte (id : IntentId) : Direction → Byte
  | .place => numByte id.val
  | .remove => numByte (id.val + 16)

/-! ### Shared layouts -/

/-- Deck sums, 16 bytes: M and V unsigned, T and Lo signed (section 11.1). -/
def sumsBytes (q : Quad) : List Byte := beInt 4 q.m ++ (beInt 4 q.t ++ (beInt 4 q.l ++ beInt 4 q.v))

/-- An intent entry, 15 bytes (section 11.1). -/
def entryBytes (e : IntentEntry) : List Byte :=
  idDirByte e.id e.dir :: (beInt 2 e.delta.m ++ (beInt 4 e.delta.t ++ (beInt 4 e.delta.l ++ beInt 4 e.delta.v)))

/-- A plan entry, 3 bytes: 0 ANY, 0xFF DEFAULT (section 11.2). -/
def PlanEntry.bytes (e : PlanEntry) : List Byte :=
  [flagByte e.closed, numByte (e.reserved.getD 0), (e.profile.map numByte).getD 0xFF]

/-- A report record: kind byte and fields (section 11.3). -/
def Report.bytes : Report → List Byte
  | .placed tag lane offset id list =>
    0x01 :: beBytes 4 tag.toNat ++ [numByte lane] ++ beBytes 2 offset ++ [numByte id.val] ++ beInt 2 list
  | .departureCleared tag id => 0x02 :: beBytes 4 tag.toNat ++ [numByte id.val]
  | .refused tag reason => 0x03 :: beBytes 4 tag.toNat ++ [numByte reason.code]
  | .overdue tag id => 0x04 :: beBytes 4 tag.toNat ++ [numByte id.val]
  | .clearanceConflict lane count => [0x05, numByte lane, numByte count]
  | .laneNearFull lane free => [0x06, numByte lane] ++ beInt 2 free
  | .planSwitched generation deferred => [0x07, generation, numByte deferred]
  | .laneEntryApplied lane generation => [0x08, numByte lane, generation]
  | .limitExcess sides => [0x09, sides]
  | .excessCleared => [0x0A]
  | .peerLost n => [0x0B, numByte n.val]
  | .peerRegained n => [0x0C, numByte n.val]
  | .strayStation n => [0x0D, numByte n.val]
  | .duplicateNumber n => [0x0E, numByte n.val]

end Sys2Proof.Machine
end

