-- ==== Sys2Proof/Machine/Operands.lean ====
section
/-! DEFINITION. The operands of the terminal's requests: the checks and the clamping of a submitted unit record (R23, R24),
plan entries (R145, R182) and the windows of R71. -/

namespace Sys2Proof

open Machine

/-- Addition of two values per quantity. -/
def Quad.add (a b : Quad) : Quad := ⟨a.m + b.m, a.t + b.t, a.l + b.l, a.v + b.v⟩

/-- The value with every sign turned: the deltas of a REMOVE intent (R41). -/
def Quad.neg (a : Quad) : Quad := ⟨-a.m, -a.t, -a.l, -a.v⟩

/-- The lower end of an open intent's interval, min(0, δ) per quantity (R73). -/
def Quad.low (a : Quad) : Quad := ⟨min 0 a.m, min 0 a.t, min 0 a.l, min 0 a.v⟩

/-- The upper end of an open intent's interval, max(0, δ) per quantity (R73). -/
def Quad.high (a : Quad) : Quad := ⟨max 0 a.m, max 0 a.t, max 0 a.l, max 0 a.v⟩

/-- The sum of a list. -/
def Quad.sum : List Quad → Quad
  | [] => Quad.zero
  | q :: qs => q.add (Quad.sum qs)

/-- The kind a code stands for (section 11.2). -/
def kindOfCode (code : Nat) : Option UnitKind :=
  match code with
  | 0 => some .car
  | 1 => some .van
  | 2 => some .lorry
  | 3 => some .trailer
  | 4 => some .coach
  | _ => none

/-- The maxima and encodings of R23; a preferred lane must be below the lane count. -/
def RawUnit.acceptable (laneCount : Nat) (u : RawUnit) : Bool :=
  u.tag != 0 && u.length.toNat ≤ 250 && u.width.toNat ≤ 30 && u.height.toNat ≤ 50 && u.mass.toNat ≤ 600 &&
    u.axle.toNat ≤ 200 && 1 ≤ u.port.toNat && u.port.toNat ≤ 6 && u.group.toNat ≤ 7 &&
    (kindOfCode u.kind.toNat).isSome && u.power.toNat ≤ 1 && u.reading.toNat ≤ 1 &&
    u.preferred.all fun p => p.toNat < laneCount

/-- The mass as clamped (R24). -/
def RawUnit.clampedMass (u : RawUnit) : Nat := max 5 u.mass.toNat

/-- The identity part as clamped (R24): values below their minima raised, then an axle value above the mass lowered to it. -/
def RawUnit.clamped (u : RawUnit) : UnitId :=
  { tag := u.tag
    kind := (kindOfCode u.kind.toNat).getD .car
    length := max 20 u.length.toNat
    width := max 15 u.width.toNat
    height := max 10 u.height.toNat
    mass := u.clampedMass
    axle := min (max 1 u.axle.toNat) u.clampedMass
    port := u.port.toNat
    group := u.group.toNat
    power := u.power.toNat == 1
    unverified := u.reading.toNat == 1
    preferred := u.preferred.map BitVec.toNat }

/-- Whether a submitted plan entry carries defined codes (R145 step 3, R182). -/
def RawEntry.acceptable (e : RawEntry) : Bool :=
  e.state.toNat ≤ 1 && e.reserved.toNat ≤ 6 && (e.profile.toNat ≤ 15 || e.profile == 0xFF)

/-- The plan entry that acceptable bytes stand for (section 11.2). -/
def RawEntry.entry (e : RawEntry) : PlanEntry :=
  { closed := e.state.toNat == 1
    reserved := if e.reserved.toNat = 0 then none else some e.reserved.toNat
    profile := if e.profile = 0xFF then none else some e.profile.toNat }

/-- Whether a deck default byte is 0..15 or absent (R145 step 3, R182). -/
def dfltAcceptable (b : Byte) : Bool := b.toNat ≤ 15 || b == 0xFF

/-- The deck default a byte carries; 0xFF is none (section 11.2). -/
def dfltOfByte (b : Byte) : Option Nat := if b = 0xFF then none else some b.toNat

/-- The staged plan a target code names: 1 A, 2 B (section 11.2). -/
def stagedOfCode (b : Byte) : Option Staged :=
  if b = 1 then some .a else if b = 2 then some .b else none

/-- The largest magnitude of a trim window value (R70). -/
abbrev windowMax : Int := 12288000000

/-- A trim window that may be put in force (R70, R71). -/
def windowAcceptable (lo hi : Int) : Bool :=
  lo ≤ hi && -windowMax ≤ lo && lo ≤ windowMax && -windowMax ≤ hi && hi ≤ windowMax

end Sys2Proof
end

