-- ==== Sys2Proof/Machine/ImageLoad.lean ====
section
/-! DEFINITION. The configuration image: reading its fields (section 11.4) and the checks of R174 in their order. -/

namespace Sys2Proof.Machine

/-- Free bytes for so many addresses from one on (log entry 6). -/
def freeBytes (draw address : Nat) : Nat → List Byte
  | 0 => []
  | n + 1 => Config.freeByte draw address :: freeBytes draw (address + 1) n

/-- The first bytes of the memory, so many of them: those the command names, and free values where it names fewer. -/
def bytesRead (draw : Nat) (image : List Byte) (count : Nat) : List Byte :=
  image.take count ++ freeBytes draw image.length (count - image.length)

/-- `count` chunks of `size` bytes each, from an offset of the image on. -/
def chunks (size : Nat) : Nat → List Byte → List (List Byte)
  | 0, _ => []
  | n + 1, bytes => bytes.take size :: chunks size n (bytes.drop size)

/-! ### The sections (section 11.4): each starts where the one before it ends -/

def stationSection (image : List Byte) : List Byte := (image.drop 7).take 21
def laneSection (image : List Byte) : List (List Byte) := chunks 15 24 (image.drop 28)
def apartSection (image : List Byte) : List Byte := (image.drop 388).take 9
def limitSection (image : List Byte) : List Byte := (image.drop 397).take 24
def boundSection (image : List Byte) : List (List Byte) := chunks 28 8 (image.drop 421)
def profileSection (image : List Byte) : List (List Byte) := chunks 7 16 (image.drop 645)
def planSection (image : List Byte) : List Byte := (image.drop 757).take 73

/-! ### Range checks, section by section (R174 step 5) -/

/-- A number in a range. -/
def between (lo hi x : Int) : Bool := lo ≤ x && x ≤ hi

/-- The STATION section's ranges (R2, R21, R49, R87, R119, R123, R174). -/
def stationOk (b : List Byte) : Bool :=
  between 0 7 (field b 0 1) && between 1 24 (field b 1 1) && between 2 10 (field b 2 1) &&
    between 0 2500 (field b 3 2) && between 5 307200 (field b 5 4) && between 10 900 (field b 9 2) &&
    between 30 1800 (field b 11 2) && between 250 4000 (field b 13 2) && between 2 8 (field b 15 1) &&
    between 0 2 (field b 17 1) && between 0 2 (field b 18 1) && between 0 1 (field b 19 1) &&
    between 0 1 (field b 20 1)

/-- One lane descriptor against R1 and its two joint conditions. -/
def laneOk (b : List Byte) : Bool :=
  between 0 2500 (field b 0 2) && between 100 2000 (field b 2 2) && field b 2 2 ≤ field b 0 2 &&
    between (-200) 200 (fieldSigned b 4 2) && between 0 400 (field b 6 2) && between 20 40 (field b 8 1) &&
    between 20 60 (field b 9 1) && between 20 (field b 9 1) (field b 10 1) && between 10 200 (field b 11 1) &&
    between 0 1 (field b 12 1) && between 0 (field b 2 2) (field b 13 2)

/-- Whether group `j` is marked incompatible with group `i` (R48); groups 1..7 have rows, group 0 none. -/
def marked (matrix : List Byte) (i j : Nat) : Bool :=
  i != 0 && j != 0 && (matrix.getD (i - 1) 0).getLsbD (j - 1)

/-- The KEEP_APART section: K, bit 7 of each row zero, and a symmetric matrix (R48). -/
def apartOk (b : List Byte) : Bool :=
  between 0 300 (field b 0 2) && (b.drop 2).all (fun row => !row.getLsbD 7) &&
    (List.range 8).all fun i => (List.range 8).all fun j => marked (b.drop 2) i j == marked (b.drop 2) j i

/-- The LIMITS section (R69, R70). -/
def limitOk (b : List Byte) : Bool :=
  between 1 2457600 (field b 0 4) && between 0 983040000 (field b 4 4) && between 1 2088960000 (field b 8 4) &&
    windowAcceptable (fieldSigned b 12 6) (fieldSigned b 18 6)

/-- One bound set (R72). -/
def boundOk (b : List Byte) : Bool :=
  between 0 307200 (field b 0 4) &&
    between (-122880000) 122880000 (fieldSigned b 4 4) && between (-122880000) 122880000 (fieldSigned b 8 4) &&
    fieldSigned b 4 4 ≤ fieldSigned b 8 4 &&
    between (-1536000000) 1536000000 (fieldSigned b 12 4) && between (-1536000000) 1536000000 (fieldSigned b 16 4) &&
    fieldSigned b 12 4 ≤ fieldSigned b 16 4 &&
    between 0 261120000 (field b 20 4) && between 0 261120000 (field b 24 4) && field b 20 4 ≤ field b 24 4

/-- One profile (R141): bits 5..7 of the kind set zero, a truth value, the threshold; a weight is a nibble and so in range. -/
def profileOk (b : List Byte) : Bool :=
  field b 0 1 < 32 && between 0 1 (field b 2 1) && between 0 500 (field b 3 2)

/-- The three bytes of a plan entry. -/
def rawEntry (b : List Byte) : RawEntry := ⟨byteField b 0, byteField b 1, byteField b 2⟩

/-- The PLAN section: every entry's codes, and the deck default (R142). -/
def planOk (b : List Byte) : Bool :=
  (chunks 3 24 b).all (fun e => (rawEntry e).acceptable) && field b 72 1 ≤ 15

/-- The first section with a fault, 1..7, or none (R174 step 5). Descriptor places at or above the lane count are not
checked. -/
def faultySection (image : List Byte) : Option Nat :=
  if !stationOk (stationSection image) then some 1
  else if !((laneSection image).take (field (stationSection image) 1 1)).all laneOk then some 2
  else if !apartOk (apartSection image) then some 3
  else if !limitOk (limitSection image) then some 4
  else if !(boundSection image).all boundOk then some 5
  else if !(profileSection image).all profileOk then some 6
  else if !planOk (planSection image) then some 7
  else none

/-- The sum of every image byte other than the two check bytes, modulo 65,536 (R174 step 4). -/
def imageSum (image : List Byte) : Nat :=
  ((image.take 5 ++ image.drop 7).foldl (fun acc b => acc + b.toNat) 0) % 65536

/-- The header checks of R174, steps 1 to 3: marker, version, length. -/
def headerFault (header : List Byte) : Option FaultCode :=
  if byteField header 0 ≠ 0x55 ∨ byteField header 1 ≠ 0x36 then some .badMarker
  else if byteField header 2 ≠ 1 then some .badVersion
  else if field header 3 2 ≠ Config.imageLength then some .badLength
  else none

/-- The checks of R174 on a whole image, steps 4 and 5; none when both pass. -/
def bodyFault (image : List Byte) : Option FaultCode :=
  if imageSum image ≠ field image 5 2 then some .badCheck else (faultySection image).map .badRange

/-! ### The settings of an image that passed (R175) -/

def laneOfBytes (b : List Byte) : LaneDesc :=
  { xStop := field b 0 2, len := field b 2 2, y := fieldSigned b 4 2, z := field b 6 2, width := field b 8 1,
    high := field b 9 1, low := field b 10 1, axle := field b 11 1,
    order := if field b 12 1 = 0 then .through else .blind, powered := field b 13 2 }

def boundsOfBytes (b : List Byte) : Bounds :=
  { lo := ⟨0, fieldSigned b 4 4, fieldSigned b 12 4, field b 20 4⟩
    hi := ⟨field b 0 4, fieldSigned b 8 4, fieldSigned b 16 4, field b 24 4⟩ }

def profileOfBytes (b : List Byte) : Profile :=
  { kinds := byteField b 0, groups := byteField b 1, unverified := field b 2 1 == 1, threshold := field b 3 2,
    wH := field b 5 1 / 16, wT := field b 5 1 % 16, wO := field b 6 1 / 16, wF := field b 6 1 % 16 }

def planOfBytes (b : List Byte) : Plan :=
  { entries := (chunks 3 24 b).map fun e => (rawEntry e).entry, dflt := field b 72 1 }

/-- The settings read from an image (section 11.4). -/
def imageSettings (image : List Byte) : Image :=
  let st := stationSection image
  let lim := limitSection image
  { stationNo := ⟨field st 0 1 % 8, Nat.mod_lt _ (by decide)⟩
    laneCount := field st 1 1
    gap := field st 2 1
    xMid := field st 3 2
    dMax := field st 5 4
    waitLimit := field st 9 2
    lifetime := field st 11 2
    heartbeat := field st 13 2
    silence := field st 15 1
    expected := byteField st 16
    subst := match field st 17 1 with | 0 => .hold | 1 => .bound | _ => .freeze
    switchMode := match field st 18 1 with | 0 => .direct | 1 => .line | _ => .request
    openDrain := field st 19 1 == 1
    activeHigh := field st 20 1 == 1
    lanes := ((laneSection image).take (field st 1 1)).map laneOfBytes
    apart := field (apartSection image) 0 2
    matrix := (apartSection image).drop 2
    mMax := field lim 0 4
    tMax := field lim 4 4
    vMax := field lim 8 4
    wMin := fieldSigned lim 12 6
    wMax := fieldSigned lim 18 6
    bounds := (boundSection image).map boundsOfBytes
    profiles := (profileSection image).map profileOfBytes
    plan := planOfBytes (planSection image) }

end Sys2Proof.Machine
end

