-- ==== Sys2Proof/Decode.lean ====
section
/-! DEFINITION. What the block decodes. The opcode table gives no row any bits, so no word spells a command. What crosses the
connections is decoded here: the bytes of a selection into a request (R158, section 11.2) and the bytes of a received frame
into a notice (R107, R108, R181), each with the encoder beside it. -/

namespace Sys2Proof

/-- No row of spec/opcode_table.json has bits: no word spells a command. -/
def decodeTableWord (_nbits _w : Nat) : Option Instr := none

open Sys2Proof.Machine

/-! ### Terminal requests (section 11.2) -/

/-- The unit record of 15 or 16 bytes; the length alone tells of the preferred lane (R182). -/
def rawUnitOfBytes (b : List Byte) : RawUnit :=
  { tag := BitVec.ofNat 32 (field b 0 4), kind := byteField b 4, length := byteField b 5, width := byteField b 6,
    height := byteField b 7, mass := BitVec.ofNat 16 (field b 8 2), axle := byteField b 10, port := byteField b 11,
    group := byteField b 12, power := byteField b 13, reading := byteField b 14, preferred := b[15]? }

/-- The bytes of a unit record. -/
def rawUnitBytes (u : RawUnit) : List Byte :=
  beBytes 4 u.tag.toNat ++ ([u.kind, u.length, u.width, u.height] ++ (beBytes 2 u.mass.toNat ++
    ([u.axle, u.port, u.group, u.power, u.reading] ++ u.preferred.toList)))

/-- The plan entries of a LOAD PLAN body, three bytes each. -/
def rawEntriesOfBytes : List Byte → List RawEntry
  | a :: b :: c :: rest => ⟨a, b, c⟩ :: rawEntriesOfBytes rest
  | _ => []

/-- The bytes of plan entries. -/
def rawEntriesBytes (es : List RawEntry) : List Byte := es.flatMap fun e => [e.state, e.reserved, e.profile]

/-- Whether a body length is one that a request kind allows; false for a kind that is not defined (section 11.2). -/
def lengthAllowed (kind len : Nat) : Bool :=
  match kind with
  | 0x00 | 0x01 | 0x02 | 0x06 | 0x08 | 0x50 | 0x52 | 0x5F => len == 0
  | 0x05 | 0x41 | 0x42 | 0x43 | 0x44 => len == 1
  | 0x03 | 0x07 => len == 2
  | 0x04 | 0x11 | 0x12 | 0x20 | 0x21 | 0x23 => len == 4
  | 0x22 => len == 5
  | 0x30 => len == 12
  | 0x10 => len == 15 || len == 16
  | 0x51 => len == 18 || len == 19
  | 0x40 => len % 3 == 0 && 3 ≤ len && len ≤ 75
  | _ => false

/-- R158: whether the whole bytes taken in form a well-framed request. Bytes after the body are ignored (R156). -/
def wellFramed (bytes : List Byte) : Bool :=
  2 ≤ bytes.length && lengthAllowed (byteField bytes 0).toNat (byteField bytes 1).toNat &&
    (byteField bytes 1).toNat ≤ bytes.length - 2

/-- The request of a kind with the given body; RESTART takes the levels then on PANEL and SWITCH. -/
def requestOfBody (panel switch : Bool) (kind : Nat) (b : List Byte) : Option Instr :=
  let tag : Tag := BitVec.ofNat 32 (field b 0 4)
  match kind with
  | 0x00 => some .null
  | 0x01 => some .readStatus
  | 0x02 => some .readShipView
  | 0x03 => some (.readLane (byteField b 0) (byteField b 1))
  | 0x04 => some (.readUnit tag)
  | 0x05 => some (.readPeer (byteField b 0))
  | 0x06 => some .readIntake
  | 0x07 => some (.readPlan (byteField b 0) (byteField b 1))
  | 0x08 => some .readReport
  | 0x10 => some (.submitArrival (rawUnitOfBytes b))
  | 0x11 => some (.submitDeparture tag)
  | 0x12 => some (.withdraw tag)
  | 0x20 => some (.reportParked tag)
  | 0x21 => some (.reportAbandoned tag)
  | 0x22 => some (if (byteField b 4).getLsbD 0 then .forcedDeparture tag else .reportDeparted tag)
  | 0x23 => some (.reportStayed tag)
  | 0x30 => some (.setTrimWindow (BitVec.ofNat 48 (field b 0 6)) (BitVec.ofNat 48 (field b 6 6)))
  | 0x40 =>
    some (if byteField b 0 = 0 then .loadPlanActive (byteField b 1) (byteField b 2) (rawEntriesOfBytes (b.drop 3))
      else .loadPlanStaged (byteField b 0) (byteField b 1) (byteField b 2) (rawEntriesOfBytes (b.drop 3)))
  | 0x41 => some (.selectStaged (byteField b 0))
  | 0x42 => some (.switchPlan (byteField b 0))
  | 0x43 => some (.blockLane (byteField b 0))
  | 0x44 => some (.unblockLane (byteField b 0))
  | 0x50 => some .beginRestore
  | 0x51 => some (.restoreUnit (byteField b 0) (BitVec.ofNat 16 (field b 1 2)) (rawUnitOfBytes (b.drop 3)))
  | 0x52 => some .endRestore
  | 0x5F => some (.restart panel switch)
  | _ => none

/-- The request that the bytes of a selection carry, or none where they are not well framed (R156, R158). -/
def requestOfBytes (panel switch : Bool) (bytes : List Byte) : Option Instr :=
  if wellFramed bytes then
    requestOfBody panel switch (byteField bytes 0).toNat ((bytes.drop 2).take (byteField bytes 1).toNat)
  else none

/-- Kind byte and body of a terminal request; none for a command that is no well-framed request (section 11.2). -/
def requestParts : Instr → Option (Byte × List Byte)
  | .null => some (0x00, [])
  | .readStatus => some (0x01, [])
  | .readShipView => some (0x02, [])
  | .readLane lane first => some (0x03, [lane, first])
  | .readUnit tag => some (0x04, beBytes 4 tag.toNat)
  | .readPeer n => some (0x05, [n])
  | .readIntake => some (0x06, [])
  | .readPlan plan first => some (0x07, [plan, first])
  | .readReport => some (0x08, [])
  | .submitArrival u => some (0x10, rawUnitBytes u)
  | .submitDeparture tag => some (0x11, beBytes 4 tag.toNat)
  | .withdraw tag => some (0x12, beBytes 4 tag.toNat)
  | .reportParked tag => some (0x20, beBytes 4 tag.toNat)
  | .reportAbandoned tag => some (0x21, beBytes 4 tag.toNat)
  | .reportDeparted tag => some (0x22, beBytes 4 tag.toNat ++ [0])
  | .forcedDeparture tag => some (0x22, beBytes 4 tag.toNat ++ [1])
  | .reportStayed tag => some (0x23, beBytes 4 tag.toNat)
  | .setTrimWindow lo hi => some (0x30, beBytes 6 lo.toNat ++ beBytes 6 hi.toNat)
  | .loadPlanActive first dflt es => some (0x40, 0 :: first :: dflt :: rawEntriesBytes es)
  | .loadPlanStaged target first dflt es => some (0x40, target :: first :: dflt :: rawEntriesBytes es)
  | .selectStaged target => some (0x41, [target])
  | .switchPlan target => some (0x42, [target])
  | .blockLane lane => some (0x43, [lane])
  | .unblockLane lane => some (0x44, [lane])
  | .beginRestore => some (0x50, [])
  | .restoreUnit lane offset u => some (0x51, lane :: (beBytes 2 offset.toNat ++ rawUnitBytes u))
  | .endRestore => some (0x52, [])
  | .restart _ _ => some (0x5F, [])
  | .reset | .leaveReset _ _ | .rdyFirstTick | .loadTryFailed _ | .loadRetry | .imageLoadEnd _ | .listenExpiry
  | .badRequest _ | .notReadySelection | .switchEdge | .panelChange _ | .evaluateArrival | .evaluateDeparture
  | .waitLimitExpiry _ | .lifetimeExpiry _ | .heartbeatExpiry | .silenceExpiry _ | .attemptStart _ | .collision
  | .attemptComplete | .invalidFrame _ | .receiveSummary _ _ _ _ | .receiveIntent _ _ | .receiveSettle _ _ _
  | .receiveRetract _ _ | .switchNegated | .selectionBegin | .lineIdle => none

/-- The bytes of a terminal request: kind byte, length byte, body (R156). -/
def requestBytes (i : Instr) : Option (List Byte) :=
  (requestParts i).map fun p => p.1 :: numByte p.2.length :: p.2

/-! ### Stowage bus frames (R107, R108, R181, section 11.1) -/

/-- The body of a frame, by kind (R107). -/
inductive FrameBody where
  | intent (entry : IntentEntry)
  | settle (id : IntentId) (sums : Quad)
  | retract (id : IntentId)
  | summary (sums : Quad) (parked : Nat) (entries : List IntentEntry)
deriving DecidableEq, Repr

/-- A frame: the sender's number, the sequence number and the body. -/
structure Frame where
  station : StationNo
  seq : Byte
  body : FrameBody
deriving DecidableEq, Repr

/-- Deck sums within their ranges of R17 (R181). -/
def sumsValid (q : Quad) : Bool :=
  0 ≤ q.m && q.m ≤ 307200 && -122880000 ≤ q.t && q.t ≤ 122880000 &&
    -1536000000 ≤ q.l && q.l ≤ 1536000000 && 0 ≤ q.v && q.v ≤ 261120000

/-- Whether an intent entry agrees with its direction (R181). -/
def entryValid (e : IntentEntry) : Bool :=
  -240000 ≤ e.delta.t && e.delta.t ≤ 240000 && -3000000 ≤ e.delta.l && e.delta.l ≤ 3000000 &&
    match e.dir with
    | .place => 5 ≤ e.delta.m && e.delta.m ≤ 600 && 0 ≤ e.delta.v && e.delta.v ≤ 510000
    | .remove => -600 ≤ e.delta.m && e.delta.m ≤ -5 && -510000 ≤ e.delta.v && e.delta.v ≤ 0

/-- Whether the ids of a list of entries are distinct and ascending (R181). -/
def idsAscending : List IntentEntry → Bool
  | [] => true
  | [_] => true
  | a :: b :: rest => a.id.val < b.id.val && idsAscending (b :: rest)

/-- The encoding checks of R181 on a frame's body. -/
def FrameBody.valid : FrameBody → Bool
  | .intent e => entryValid e
  | .settle _ sums => sumsValid sums
  | .retract _ => true
  | .summary sums parked es =>
    sumsValid sums && parked ≤ 512 && es.length ≤ 4 && idsAscending es && es.all entryValid

/-- The kind code of a body (section 11.1). -/
def FrameBody.code : FrameBody → Nat
  | .intent _ => 1
  | .settle _ _ => 2
  | .retract _ => 3
  | .summary _ _ _ => 4

/-- The bytes of a body (section 11.1). -/
def FrameBody.bytes : FrameBody → List Byte
  | .intent e => entryBytes e
  | .settle id sums => numByte id.val :: sumsBytes sums
  | .retract id => [numByte id.val]
  | .summary sums parked es => sumsBytes sums ++ (beBytes 2 parked ++ (numByte es.length :: es.flatMap entryBytes))

/-- Header and body: kind and station number, sequence number, body length, body (R107, section 11.1). -/
def Frame.headAndBody (f : Frame) : List Byte :=
  numByte (16 * f.body.code + f.station.val) :: f.seq :: numByte f.body.bytes.length :: f.body.bytes

/-- The bytes of a frame with its check, high byte first (R107). -/
def Frame.bytes (f : Frame) : List Byte := f.headAndBody ++ beBytes 2 (frameCheck f.headAndBody).toNat

/-- Deck sums read from 16 bytes (section 11.1). -/
def sumsOfBytes (b : List Byte) : Quad :=
  ⟨field b 0 4, fieldSigned b 4 4, fieldSigned b 8 4, field b 12 4⟩

/-- An id byte: bits 7..4 zero (section 11.1, R181). -/
def idOfByte (b : Byte) : Option IntentId :=
  if h : b.toNat < 16 then some ⟨b.toNat, h⟩ else none

/-- An intent entry read from 15 bytes; bits 7..5 of its first byte must be zero (R181). -/
def entryOfBytes (b : List Byte) : Option IntentEntry :=
  let first := (byteField b 0).toNat
  if first < 32 then
    some ⟨⟨first % 16, Nat.mod_lt _ (by decide)⟩, if first < 16 then .place else .remove,
      ⟨fieldSigned b 1 2, fieldSigned b 3 4, fieldSigned b 7 4, fieldSigned b 11 4⟩⟩
  else none

/-- So many intent entries read one after another, or none where one of them breaks its encoding. -/
def entriesOfBytes : Nat → List Byte → Option (List IntentEntry)
  | 0, _ => some []
  | n + 1, b =>
    match entryOfBytes (b.take 15), entriesOfBytes n (b.drop 15) with
    | some e, some es => some (e :: es)
    | _, _ => none

/-- The body of a kind whose bytes are given, where their number is the one the kind requires (R108). -/
def bodyOfBytes (kind : Nat) (b : List Byte) : Option FrameBody :=
  match kind with
  | 1 => if b.length = 15 then (entryOfBytes b).map .intent else none
  | 2 => if b.length = 17 then (idOfByte (byteField b 0)).map fun id => .settle id (sumsOfBytes (b.drop 1)) else none
  | 3 => if b.length = 1 then (idOfByte (byteField b 0)).map .retract else none
  | 4 =>
    let n := (byteField b 18).toNat
    if n ≤ 4 ∧ b.length = 19 + 15 * n then
      (entriesOfBytes n (b.drop 19)).map fun es => .summary (sumsOfBytes b) (field b 16 2) es
    else none
  | _ => none

/-- The frame that the bytes of a run on the line carry, or none where a check of R108 or R181 fails. The body length of
the header says how many bytes are judged; bytes after the check are line activity alone (R108). -/
def frameOfBytes (rx : List RxByte) : Option Frame :=
  let len := ((rx.map RxByte.value).getD 2 0).toNat
  let judged := rx.take (5 + len)
  let bytes := judged.map RxByte.value
  let first := (byteField bytes 0).toNat
  if judged.length = 5 + len ∧ judged.all RxByte.stop = true ∧ first % 16 < 8 ∧
      field bytes (3 + len) 2 = (frameCheck (bytes.take (3 + len))).toNat then
    match bodyOfBytes (first / 16) ((bytes.drop 3).take len) with
    | some body =>
      if body.valid then some ⟨⟨first % 8, Nat.mod_lt _ (by decide)⟩, byteField bytes 1, body⟩ else none
    | none => none
  else none

end Sys2Proof
end

