-- ==== Sys2Proof/Machine/Units.lean ====
section
/-! DEFINITION. The unit store's answers (chapter 1): lane geometry, occupied and free length, exit units, contributions, and
the lookups by tag. -/

namespace Sys2Proof.Machine

/-- The descriptor that stands for a lane number that names no lane. -/
def LaneDesc.none : LaneDesc := ⟨0, 0, 0, 0, 0, 0, 0, 0, .through, 0⟩

/-- The descriptor of a lane (R1). -/
def Image.lane (im : Image) (lane : Nat) : LaneDesc := im.lanes.getD lane LaneDesc.none

/-- The lane count; 0 while no image is in force (R163, R167). -/
def State.laneCount (s : State) : Nat := (s.image.map Image.laneCount).getD 0

/-- A lane's effective clearance (R3). -/
def UnitStore.clearance (u : UnitStore) (d : LaneDesc) : Nat := if u.lowered then d.low else d.high

/-- The records of a lane among those given, in increasing order of their offset (R8). -/
def onLane (records : List UnitRecord) (lane : Nat) : List UnitRecord := records.filter fun r => r.lane == lane

/-- The newest record of a lane (R8). -/
def newestOn (records : List UnitRecord) (lane : Nat) : Option UnitRecord := (onLane records lane).getLast?

/-- The occupied length U of a lane (R10). -/
def occupied (gap : Nat) (records : List UnitRecord) (lane : Nat) : Nat :=
  match newestOn records lane with
  | none => 0
  | some r => r.offset + r.unit.length + gap

/-- The free length of a lane, which may be negative (R10). -/
def freeLength (im : Image) (records : List UnitRecord) (lane : Nat) : Int :=
  (im.lane lane).len - occupied im.gap records lane

/-- The exit unit of a lane (R12). -/
def exitUnit (im : Image) (records : List UnitRecord) (lane : Nat) : Option UnitRecord :=
  match (im.lane lane).order with
  | .through => (onLane records lane).head?
  | .blind => (onLane records lane).getLast?

/-- The index of a lane's exit unit (R12, R163). -/
def exitIndex (im : Image) (records : List UnitRecord) (lane : Nat) : Option Nat :=
  match onLane records lane, (im.lane lane).order with
  | [], _ => none
  | _ :: _, .through => some 0
  | _ :: rest, .blind => some rest.length

/-- The sum of m over the given records; over all held records this is the deck record mass (R19). -/
def recordMass (records : List UnitRecord) : Nat := (records.map fun r => r.unit.mass).sum

/-- The free pool count (R13, R19). -/
def UnitStore.freePool (u : UnitStore) : Nat := Config.poolSize - u.records.length

/-- Whether a record counts in the deck sums (R17). -/
def UnitRecord.counts (r : UnitRecord) : Bool := r.state != .pending

/-- The parked count of a SUMMARY: PARKED and LEAVING records (R107). -/
def UnitStore.parkedCount (u : UnitStore) : Nat := (u.records.filter UnitRecord.counts).length

/-- The record with a tag (R19). -/
def UnitStore.find (u : UnitStore) (tag : Tag) : Option UnitRecord := u.records.find? fun r => r.unit.tag == tag

/-- The longitudinal lever λ in half-dm (R40). -/
def lever (xMid : Nat) (d : LaneDesc) (offset length : Nat) : Int :=
  2 * (d.xStop : Int) - 2 * (offset : Int) - (length : Int) - 2 * (xMid : Int)

/-- The four contributions of a unit at a lane and an offset (R41). -/
def contributions (im : Image) (lane offset : Nat) (unit : UnitId) : Quad :=
  let d := im.lane lane
  { m := unit.mass
    t := unit.mass * (2 * d.y)
    l := unit.mass * lever im.xMid d offset unit.length
    v := unit.mass * (2 * (d.z : Int) + unit.height) }

/-- x of the after end of a unit (R6). -/
def afterEnd (d : LaneDesc) (offset length : Nat) : Int := (d.xStop : Int) - offset - length

/-- x of the forward end of a unit (R6). -/
def forwardEnd (d : LaneDesc) (offset : Nat) : Int := (d.xStop : Int) - offset

/-- The store with a record added as its lane's newest (R14, R15); the deck sums take it when it counts (R18). -/
def UnitStore.insert (u : UnitStore) (r : UnitRecord) : UnitStore :=
  { u with
    records := u.records ++ [r]
    sums := if r.counts then u.sums.add r.contrib else u.sums }

/-- The store without the record of a tag (R16); a record that counts leaves the deck sums (R18). -/
def UnitStore.remove (u : UnitStore) (tag : Tag) : UnitStore :=
  match u.find tag with
  | none => u
  | some r =>
    { u with
      records := u.records.filter fun x => x.unit.tag != tag
      sums := if r.counts then u.sums.add r.contrib.neg else u.sums }

/-- The store with a record's state changed and everything else of it kept (R7). -/
def UnitStore.setState (u : UnitStore) (tag : Tag) (st : RecordState) : UnitStore :=
  { u with records := u.records.map fun r => if r.unit.tag == tag then { r with state := st } else r }

/-- The store with a LEAVING record back to PARKED in its place (R91, R99). -/
def UnitStore.putBack (u : UnitStore) (tag : Tag) : UnitStore :=
  { u with
    records := u.records.map fun r =>
      if r.unit.tag == tag && r.state == .leaving then { r with state := .parked } else r }

/-- The store with a PENDING record become PARKED and its contributions added to the deck sums (R18, R96). -/
def UnitStore.park (u : UnitStore) (r : UnitRecord) : UnitStore :=
  { u.setState r.unit.tag .parked with sums := u.sums.add r.contrib }

end Sys2Proof.Machine
end

