-- ==== Sys2Proof/Machine/ShipView.lean ====
section
/-! DEFINITION. The ship view (chapter 4): interval and expected view, the six excess sides, the limit check, the indicators. -/

namespace Sys2Proof.Machine

/-- Whether a peer is untrusted (R124). -/
def Lock.untrusted (k : Lock) : Bool := k == .lost || k == .unheard

/-- Whether a peer is counted by its bounds (R74). -/
def countedByBounds (mode : SubstMode) (k : Lock) : Bool := mode == .bound && k.untrusted

/-- The bounds of a station number (R72). -/
def Image.boundsOf (im : Image) (n : StationNo) : Bounds := im.bounds.getD n.val ⟨Quad.zero, Quad.zero⟩

/-- A peer's term of the lower bounds (R74). -/
def peerLow (im : Image) (p : Peer) : Quad :=
  if countedByBounds im.subst p.lock then (im.boundsOf p.number).lo
  else p.sums.add (Quad.sum (p.recorded.map fun e => e.delta.low))

/-- A peer's term of the upper bounds (R74). -/
def peerHigh (im : Image) (p : Peer) : Quad :=
  if countedByBounds im.subst p.lock then (im.boundsOf p.number).hi
  else p.sums.add (Quad.sum (p.recorded.map fun e => e.delta.high))

/-- The midpoint of a bound pair, truncated toward zero, per quantity (R79). -/
def midpoint (b : Bounds) : Quad :=
  ⟨(b.lo.m + b.hi.m).tdiv 2, (b.lo.t + b.hi.t).tdiv 2, (b.lo.l + b.hi.l).tdiv 2, (b.lo.v + b.hi.v).tdiv 2⟩

/-- A peer's term of the expected view (R79). -/
def peerExpected (im : Image) (p : Peer) : Quad :=
  if countedByBounds im.subst p.lock then midpoint (im.boundsOf p.number)
  else p.sums.add (Quad.sum (p.recorded.map fun e => e.delta))

/-- The own open intents that count as intervals: all but the one that is the candidate (R73). -/
def otherIntents (s : State) (skip : Option IntentId) : List Intent :=
  s.intents.open_.filter fun it => some it.id != skip

/-- The lower bounds of the interval view, with a candidate's deltas (zero where none is tested) and the candidate's own
intent left out of the intent terms (R73, R74). -/
def viewLow (s : State) (im : Image) (skip : Option IntentId) (cand : Quad) : Quad :=
  ((s.units.sums.add (Quad.sum ((otherIntents s skip).map fun it => it.delta.low))).add cand).add
    (Quad.sum (s.peers.peers.map (peerLow im)))

/-- The upper bounds of the interval view (R73, R74). -/
def viewHigh (s : State) (im : Image) (skip : Option IntentId) (cand : Quad) : Quad :=
  ((s.units.sums.add (Quad.sum ((otherIntents s skip).map fun it => it.delta.high))).add cand).add
    (Quad.sum (s.peers.peers.map (peerHigh im)))

/-- The expected view, with a candidate's deltas (R79). -/
def expectedView (s : State) (im : Image) (cand : Quad) : Quad :=
  ((s.units.sums.add (Quad.sum (s.intents.open_.map fun it => it.delta))).add cand).add
    (Quad.sum (s.peers.peers.map (peerExpected im)))

/-- The six excesses (R76). -/
structure Excess where
  mHigh : Int
  tHigh : Int
  tLow : Int
  lHigh : Int
  lLow : Int
  vHigh : Int
deriving DecidableEq, Repr

/-- The excesses of an interval against the limits and the window in force (R76). -/
def excessOf (im : Image) (view : ShipView) (lo hi : Quad) : Excess :=
  { mHigh := max 0 (hi.m - im.mMax)
    tHigh := max 0 (hi.t - im.tMax)
    tLow := max 0 (-im.tMax - lo.t)
    lHigh := max 0 (hi.l - view.wMax)
    lLow := max 0 (view.wMin - lo.l)
    vHigh := max 0 (hi.v - im.vMax) }

/-- The excesses in the order of R162. -/
def Excess.toList (e : Excess) : List Int := [e.mHigh, e.tHigh, e.tLow, e.lHigh, e.lLow, e.vHigh]

/-- The set of positive sides as LIMIT EXCESS carries it: bit 0 M high to bit 5 V high (section 11.3). -/
def Excess.sides (e : Excess) : Byte :=
  (if 0 < e.mHigh then 1#8 else 0#8) ||| (if 0 < e.tHigh then 2#8 else 0#8) ||| (if 0 < e.tLow then 4#8 else 0#8) |||
    (if 0 < e.lHigh then 8#8 else 0#8) ||| (if 0 < e.lLow then 16#8 else 0#8) ||| (if 0 < e.vHigh then 32#8 else 0#8)

/-- Whether any side is positive (R76). -/
def Excess.any (e : Excess) : Bool :=
  0 < e.mHigh || 0 < e.tHigh || 0 < e.tLow || 0 < e.lHigh || 0 < e.lLow || 0 < e.vHigh

/-- Whether no side of `e` is larger than that of `base` (R77). -/
def Excess.noneGrows (e base : Excess) : Bool :=
  e.mHigh ≤ base.mHigh && e.tHigh ≤ base.tHigh && e.tLow ≤ base.tLow && e.lHigh ≤ base.lHigh && e.lLow ≤ base.lLow &&
    e.vHigh ≤ base.vHigh

/-- The excesses of the interval view without a candidate (R76). -/
def excessNow (s : State) (im : Image) : Excess :=
  excessOf im s.view (viewLow s im none Quad.zero) (viewHigh s im none Quad.zero)

/-- The limit check: no side's excess grows with the candidate, the candidate's own intent counted in neither view
(R53, R65, R66, R77). -/
def limitCheck (s : State) (im : Image) (skip : Option IntentId) (cand : Quad) : Bool :=
  (excessOf im s.view (viewLow s im skip cand) (viewHigh s im skip cand)).noneGrows
    (excessOf im s.view (viewLow s im skip Quad.zero) (viewHigh s im skip Quad.zero))

/-! ### Indicators (R80) -/

/-- The quotient rounded half away from zero, for a positive divisor (00_scope.md, Arithmetic). -/
def roundDiv (num den : Int) : Int :=
  if 0 ≤ num then (2 * num + den) / (2 * den) else -((2 * -num + den) / (2 * den))

/-- A value held to a range: beyond it, the nearer end (R80). -/
def holdTo (lo hi x : Int) : Int := max lo (min hi x)

/-- The sign of a value as the zero-denominator cases of R80 give it. -/
def thousandSign (x : Int) : Int := if x = 0 then 0 else if 0 < x then 1000 else -1000

/-- The list figure (R80). -/
def listFigure (s : State) (im : Image) : Int :=
  let t := (expectedView s im Quad.zero).t
  if im.tMax = 0 then thousandSign t else holdTo (-1000) 1000 (roundDiv (t * 1000) im.tMax)

/-- The trim figure (R80). -/
def trimFigure (s : State) (im : Image) : Int :=
  let off := 2 * (expectedView s im Quad.zero).l - (s.view.wMin + s.view.wMax)
  if s.view.wMin = s.view.wMax then thousandSign off
  else holdTo (-1000) 1000 (roundDiv (off * 1000) (s.view.wMax - s.view.wMin))

/-- The mass figure (R80). -/
def massFigure (s : State) (im : Image) : Int :=
  holdTo 0 1000 (roundDiv ((expectedView s im Quad.zero).m * 1000) im.mMax)

/-- The vertical figure (R80). -/
def verticalFigure (s : State) (im : Image) : Int :=
  holdTo 0 1000 (roundDiv ((expectedView s im Quad.zero).v * 1000) im.vMax)

end Sys2Proof.Machine
end

