-- ==== Sys2Proof/Machine/Flags.lean ====
section
/-! DEFINITION. The flags and lines the part derives from its state: the evaluation gate (R28), the untrusted-peer condition of
the re-check (R64), ATTN (R168) and ALARM (R84) with their drives, and which timers have reached their limits. -/

namespace Sys2Proof.Machine

/-- The station works: LISTENING, RESTORING or JOINED (R144). -/
def StationState.working : StationState → Bool
  | .listening | .restoring | .joined => true
  | .loading | .faulted | .quiet => false

/-- The station has an image and serves: LISTENING, RESTORING, JOINED or QUIET. -/
def StationState.serving : StationState → Bool
  | .listening | .restoring | .joined | .quiet => true
  | .loading | .faulted => false

/-- The peers let the station decide: none is DOUBTFUL, and under FREEZE none is LOST or UNHEARD (R28, R64, R138). -/
def peersAllow (im : Image) (t : PeerTable) : Bool :=
  t.peers.all (fun p => p.lock != .doubtful) && (im.subst != .freeze || t.peers.all fun p => !p.lock.untrusted)

/-- An own intent is UNANNOUNCED (R28, R88). -/
def IntentTable.hasUnannounced (t : IntentTable) : Bool := t.open_.any fun it => it.state == .unannounced

/-- The evaluation gate (R28); closed while no image is in force. -/
def gateOpen (s : State) : Bool :=
  match s.image with
  | none => false
  | some im =>
    s.control.station == .joined && !s.intents.hasUnannounced && s.intents.open_.length < Config.intentCap &&
      s.reports.length < Config.decisionBelow && peersAllow im s.peers

/-- The ALARM output: limit excess, FAULTED or QUIET (R84). -/
def alarm (s : State) : Bool :=
  s.view.limitExcess || s.control.station == .faulted || s.control.station == .quiet

/-- What the part does to an output line. -/
inductive Drive where
  | low
  | high
  | released
deriving DecidableEq, Repr

/-- The ATTN output: a report is held (R168). -/
def attn (s : State) : Bool := !s.reports.isEmpty

/-- How the ATTN line is driven: push-pull, high when asserted, in every station state (R168). -/
def attnDrive (s : State) : Drive := if attn s then .high else .low

/-- How the ALARM line is driven: as the image sets it, and open-drain active-low until the image is in force (R84). -/
def alarmDrive (s : State) : Drive :=
  let openDrain := (s.image.map Image.openDrain).getD true
  let activeHigh := (s.image.map Image.activeHigh).getD false
  if alarm s == activeHigh then (if openDrain then .released else .high) else .low

/-! ### Timer limits in ms, and the timers that have reached them (R21, R87, R132, R173, R177) -/

/-- The wait limit (R21). -/
def Image.waitMs (im : Image) : Nat := im.waitLimit * 1000

/-- The intent lifetime (R87). -/
def Image.lifetimeMs (im : Image) : Nat := im.lifetime * 1000

/-- The silence limit n × H (R132). -/
def Image.silenceLimit (im : Image) : Nat := im.silence * im.heartbeat

/-- The listen interval (n + 1) × H (R177). -/
def Image.listenInterval (im : Image) : Nat := (im.silence + 1) * im.heartbeat

/-- An entry's wait timer has reached the wait limit, and its mark is clear (R34). -/
def Entry.waitedOut (im : Image) (e : Entry) : Bool := !e.expired && im.waitMs ≤ e.timer

/-- An ANNOUNCED intent's lifetime timer has reached the lifetime (R94). -/
def Intent.livedOut (im : Image) (it : Intent) : Bool :=
  match it.state with
  | .announced ms => im.lifetimeMs ≤ ms
  | .unannounced | .overdue => false

/-- A peer's running silence timer has reached the silence limit (R133). -/
def Peer.silentTooLong (im : Image) (p : Peer) : Bool :=
  match p.silence with
  | .running ms => im.silenceLimit ≤ ms
  | .stopped | .atLimit => false

/-- A running timer, where it runs, has reached a limit. -/
def reachedLimit (limit : Nat) (timer : Option Nat) : Bool := timer.any fun ms => limit ≤ ms

/-- The loader has waited 20 ms since a failed try (R173). -/
def Loader.waitedOut : Loader → Bool
  | .waiting ms => Config.retryWait ≤ ms
  | .off | .trying => false

end Sys2Proof.Machine
end

