-- ==== Sys2Proof/Machine/Ops.lean ====
section
/-! DEFINITION. Operations that many commands share: posting a report (R168), releasing held entries (R33), refusing a marked
entry (R35), settling the limit-excess state (R82, R83), and taking in and answering a request at the port (R156, R157). -/

namespace Sys2Proof.Machine

/-- What a command answers. -/
abbrev Result := Host.Outcome State Fault Refusal

/-- The element that satisfies `p` first, changed by `f`. -/
def updateFirst {α : Type} (p : α → Bool) (f : α → α) : List α → List α
  | [] => []
  | a :: rest => if p a then f a :: rest else a :: updateFirst p f rest

/-! ### Reports -/

/-- Whether a report is a decision report (section 9.4). -/
def Report.isDecision : Report → Bool
  | .placed _ _ _ _ _ | .departureCleared _ _ | .refused _ _ => true
  | .overdue _ _ | .clearanceConflict _ _ | .laneNearFull _ _ | .planSwitched _ _ | .laneEntryApplied _ _
  | .limitExcess _ | .excessCleared | .peerLost _ | .peerRegained _ | .strayStation _ | .duplicateNumber _ => false

/-- The report queue after a report is posted: a decision report is admitted, a status report while fewer than 24 are
held (R168). -/
def admitted (r : Report) (reports : List Report) : List Report :=
  if r.isDecision || reports.length < Config.statusBelow then reports ++ [r] else reports

/-- Post one report (R168). -/
def post (r : Report) (s : State) : State := { s with reports := admitted r s.reports }

/-! ### Intake queue -/

/-- The tag of an entry's unit record or departure (R21). -/
def Entry.tag (e : Entry) : Tag :=
  match e.ask with
  | .arrival u => u.tag
  | .placedArrival t => t
  | .departure t => t

/-- Whether an entry is PLACING. -/
def Entry.isPlacing (e : Entry) : Bool :=
  match e.state with
  | .placing _ => true
  | .waiting | .held _ => false

/-- A HELD entry becomes WAITING with its hold reason cleared (R33). -/
def Entry.release (e : Entry) : Entry :=
  match e.state with
  | .held _ => { e with state := .waiting }
  | .waiting | .placing _ => e

/-- Release every HELD entry (R33). -/
def releaseHeld (s : State) : State := { s with intake := s.intake.map Entry.release }

/-- The entries a wait-limit refusal may remove: mark set, WAITING or HELD (R35). -/
def Entry.refusable (e : Entry) : Bool := e.expired && !e.isPlacing

/-- Refuse the oldest marked entry that is WAITING or HELD, while fewer than 28 reports are held (R35). -/
def refuseMarked (s : State) : State :=
  if s.reports.length < Config.decisionBelow then
    match s.intake.find? Entry.refusable with
    | none => s
    | some e => post (.refused e.tag .waitLimit) { s with intake := s.intake.eraseP Entry.refusable }
  else s

/-! ### The limit-excess state -/

/-- Settle the limit-excess state on the view as it stands; LIMIT EXCESS or EXCESS CLEARED is posted when it changes (R82,
R83). Without an image there is no view and the state stays as it is (R85). -/
def settle (s : State) : State :=
  match s.image with
  | none => s
  | some im =>
    let e := excessNow s im
    if e.any = s.view.limitExcess then s
    else post (if e.any then .limitExcess e.sides else .excessCleared)
      { s with view := { s.view with limitExcess := e.any } }

/-! ### Requests at the terminal port -/

/-- Whether the port takes a request in: a selection begun while RDY was high is in progress, or RDY is high and the command
stands for its whole selection (R156, R157; DESIGN CHOICE, log entry 3); nothing is received while the part is held in reset. -/
def receives (s : State) : Bool := !s.control.held && (s.port.selection || s.port.rdy)

/-- The state with another port. -/
def State.withPort (s : State) (p : Port) : State := { s with port := p }

/-- The port at the start of a selection begun while RDY is high: RDY falls, and the pending reply or the not-ready marker is
shifted out (R157). -/
def Port.begin (p : Port) : Port :=
  { p with
    rdy := false
    selection := true
    dataOut := match p.pendingReply with
      | some reply => .reply reply
      | none => .marker }

/-- The state in which a received request is handled: its selection has begun (R157). -/
def takeIn (s : State) : State := if s.port.selection then s else s.withPort s.port.begin

/-- The reply is made up and pending, the selection is over and RDY rises (R156, R157). -/
def answer (reply : List Byte) (s : State) : State :=
  s.withPort { s.port with rdy := true, selection := false, pendingReply := some reply }

/-- A request: taken in, handled by its owner as one event, answered (R156). A request that the port does not take in changes
nothing (R157). -/
def serve (s : State) (handle : State → List Byte × State) : Result :=
  .next (if receives s then answer (handle (takeIn s)).1 (handle (takeIn s)).2 else s)

/-- A request whose reply is a code with no body. -/
def serveCode (s : State) (handle : State → ReplyCode × State) : Result :=
  serve s fun t => ([(handle t).1.byte], (handle t).2)

/-- An event that takes place only where its condition holds, and otherwise leaves the state as it is (DESIGN CHOICE, log entry 2). -/
def event (s : State) (condition : Bool) (effect : State → State) : Result := .next (if condition then effect s else s)

end Sys2Proof.Machine
end

