-- ==== Sys2Proof/Machine/PlanOps.lean ====
section
/-! DEFINITION. The plan store's shared operations (chapter 8): effective entries and profiles, near-full states, switch-overs,
the taking of a pending entry; and the removal and insertion of records, which hand the plan store a lane's free length. -/

namespace Sys2Proof.Machine

/-- The entry that stands for a number a plan does not hold. -/
def PlanEntry.none : PlanEntry := ⟨false, Option.none, Option.none⟩

/-- The profile that stands for a number the plan store does not hold. -/
def Profile.none : Profile := ⟨0, 0, false, 0, 0, 0, 0, 0⟩

/-- A plan's entry for a lane number (R142). -/
def Plan.entry (p : Plan) (lane : Nat) : PlanEntry := p.entries.getD lane PlanEntry.none

/-- A plan with one entry replaced. -/
def Plan.setEntry (p : Plan) (lane : Nat) (e : PlanEntry) : Plan := { p with entries := p.entries.set lane e }

/-- What the plan store holds for a lane beside the plans (R143). -/
def PlanStore.lane (p : PlanStore) (lane : Nat) : LaneState := p.lanes.getD lane ⟨Option.none, false, false⟩

/-- The plan store with a lane's own part changed. -/
def PlanStore.setLane (p : PlanStore) (lane : Nat) (ls : LaneState) : PlanStore := { p with lanes := p.lanes.set lane ls }

/-- Whether a lane is DEFERRED (R143). -/
def PlanStore.deferred (p : PlanStore) (lane : Nat) : Bool := (p.lane lane).pending.isSome

/-- The number of DEFERRED lanes (R149). -/
def PlanStore.deferredCount (p : PlanStore) : Nat := (p.lanes.filter fun ls => ls.pending.isSome).length

/-- The number of a lane's effective profile (R143). -/
def PlanStore.profileNo (p : PlanStore) (lane : Nat) : Nat := (p.active.entry lane).profile.getD p.active.dflt

/-- A lane's effective profile (R143). -/
def effectiveProfile (im : Image) (p : PlanStore) (lane : Nat) : Profile := im.profiles.getD (p.profileNo lane) Profile.none

/-- The near-full threshold in force for a lane (R153). -/
def threshold (im : Image) (p : PlanStore) (lane : Nat) : Nat := (effectiveProfile im p lane).threshold

/-- Whether a lane's free length is below its threshold (R153). -/
def nearlyFull (im : Image) (s : State) (lane : Nat) : Bool :=
  freeLength im s.units.records lane < (threshold im s.plans lane : Int)

/-- Compare a lane's free length with its threshold (R153): an ARMED lane below becomes REPORTED and posts LANE NEAR FULL, a
REPORTED lane at or above becomes ARMED. -/
def compareNearFull (im : Image) (lane : Nat) (s : State) : State :=
  let ls := s.plans.lane lane
  if nearlyFull im s lane = ls.reported then s
  else
    let t := { s with plans := s.plans.setLane lane { ls with reported := nearlyFull im s lane } }
    if nearlyFull im s lane then post (.laneNearFull lane (freeLength im s.units.records lane)) t else t

/-! ### Records in and out of lanes -/

/-- Put a record into its lane as the newest, and hand the plan store the lane's new free length (R14, R15). -/
def insertRecord (im : Image) (r : UnitRecord) (s : State) : State :=
  compareNearFull im r.lane { s with units := s.units.insert r }

/-- Take a record out of its lane and hand the plan store the lane's free length (R16). -/
def removeRecord (im : Image) (r : UnitRecord) (s : State) : State :=
  compareNearFull im r.lane { s with units := s.units.remove r.unit.tag }

/-! ### Deferral and switch-over -/

/-- Whether an own open intent, in any state and of either direction, has its record in the lane (R148). -/
def intentOnLane (s : State) (lane : Nat) : Bool :=
  s.intents.open_.any fun it => (s.units.find it.tag).any fun r => r.lane == lane

/-- Compare again the lanes, of those given, whose near-full threshold differs from what it was (R154). -/
def compareChanged (im : Image) (before : PlanStore) : List Nat → State → State
  | [], s => s
  | lane :: rest, s =>
    compareChanged im before rest
      (if threshold im s.plans lane = threshold im before lane then s else compareNearFull im lane s)

/-- A lane's pending entry put in force: the entry replaced, no longer pending, LANE ENTRY APPLIED posted (R150 steps 1 to 3). -/
def takeEntry (lane : Nat) (e : PlanEntry) (s : State) : State :=
  let plans := { s.plans with active := s.plans.active.setEntry lane e }
  post (.laneEntryApplied lane s.plans.generation)
    { s with plans := plans.setLane lane { s.plans.lane lane with pending := none } }

/-- A DEFERRED lane on which no own open intent is left takes its pending entry; its free length is compared where its threshold
has changed (R101, R150). -/
def applyPending (im : Image) (lane : Nat) (s : State) : State :=
  match (s.plans.lane lane).pending with
  | none => s
  | some e => if intentOnLane s lane then s else compareChanged im s.plans [lane] (takeEntry lane e s)

/-- What a switch-over does to one lane that has a new entry (the table of R148). -/
def switchLane (s : State) (lane : Nat) (new : PlanEntry) (p : PlanStore) : PlanStore :=
  let ls := p.lane lane
  if new = p.active.entry lane then p.setLane lane { ls with pending := none }
  else if ls.pending.isSome || intentOnLane s lane then p.setLane lane { ls with pending := some new }
  else { p with active := p.active.setEntry lane new }

/-- The lanes of a switch-over in ascending order (R148). -/
def switchLanes (s : State) : List (Nat × PlanEntry) → PlanStore → PlanStore
  | [], p => p
  | (lane, new) :: rest, p => switchLanes s rest (switchLane s lane new p)

/-- The lanes, the deck default and the generation of a switch-over, and PLAN SWITCHED (R148, R149 steps 1 and 2). -/
def switched (new : List (Nat × PlanEntry)) (dflt : Option Nat) (s : State) : State :=
  let p := switchLanes s new s.plans
  let q := { p with active := { p.active with dflt := dflt.getD p.active.dflt }, generation := p.generation + 1 }
  post (.planSwitched q.generation q.deferredCount) { s with plans := q }

/-- A switch-over with its new entries and new deck default, and everything it does in the same handling (R148, R149). -/
def switchOver (im : Image) (new : List (Nat × PlanEntry)) (dflt : Option Nat) (s : State) : State :=
  releaseHeld (compareChanged im s.plans (List.range im.laneCount) (switched new dflt s))

/-- The plan a staged name stands for. -/
def PlanStore.staged (p : PlanStore) : Staged → Plan
  | .a => p.stagedA
  | .b => p.stagedB

/-- The active plan with the staged plan's entries for numbers at or above the lane count (R148). -/
def copyUnused (im : Image) (st : Plan) (s : State) : State :=
  { s with plans := { s.plans with
      active := { s.plans.active with
        entries := s.plans.active.entries.take im.laneCount ++ st.entries.drop im.laneCount } } }

/-- A switch-over from a staged plan: its entries for every lane below the lane count and its deck default; its entries at or
above the lane count are copied as they stand (R148). -/
def switchFromStaged (im : Image) (which : Staged) (s : State) : State :=
  let st := s.plans.staged which
  switchOver im ((List.range im.laneCount).map fun lane => (lane, st.entry lane)) (some st.dflt) (copyUnused im st s)

/-- The entries a LOAD PLAN takes: in order for the lanes from the first lane upward, those at or above the lane count ignored
(R145 step 4). -/
def takenEntries (laneCount first : Nat) : List RawEntry → List (Nat × PlanEntry)
  | [] => []
  | e :: rest => if first < laneCount then (first, e.entry) :: takenEntries laneCount (first + 1) rest else []

/-- A staged plan with taken entries and a carried deck default written into it (R145 step 5). -/
def Plan.write (p : Plan) (taken : List (Nat × PlanEntry)) (dflt : Option Nat) : Plan :=
  { entries := (taken.foldl (fun q e => q.setEntry e.1 e.2) p).entries, dflt := dflt.getD p.dflt }

end Sys2Proof.Machine
end

