-- ==== Sys2Proof/Machine/BusOps.lean ====
section
/-! DEFINITION. The bus controller's shared operations (chapter 6): the outbound queue with its SUMMARY rules, backoff, and what a
notice carries at an attempt. -/

namespace Sys2Proof.Machine

/-- Whether a notice is a closure notice: SETTLE or RETRACT (R117). -/
def Notice.isClosure : Notice → Bool
  | .settle _ | .retract _ => true
  | .summary | .intent _ => false

/-- Whether a notice is the INTENT notice of the intent with an id. -/
def Notice.isIntentOf (id : IntentId) : Notice → Bool
  | .intent e => e.id == id
  | .summary | .settle _ | .retract _ => false

/-- Whether the queue holds a SUMMARY (R117). -/
def Bus.hasSummary (b : Bus) : Bool := b.queue.any fun n => n == .summary

/-- Whether the SUMMARY is in an attempt: it is the front notice and an attempt is in progress (R117). -/
def Bus.summarySending (b : Bus) : Bool := b.sending.isSome && b.queue.head? == some .summary

/-- A new front notice has an attempt count of 0 and no sequence number (R110). -/
def Bus.newFront (b : Bus) (queue : List Notice) : Bus := { b with queue := queue, attempts := 0, frontSeq := none }

/-- A notice joins at the back (R110). -/
def Bus.join (b : Bus) (n : Notice) : Bus :=
  match b.queue with
  | [] => b.newFront [n]
  | _ :: _ => { b with queue := b.queue ++ [n] }

/-- The waiting notices with a SUMMARY queued among them: in place of the oldest closure notice, every closure notice removed,
or at the back where there is none (R117). -/
def placeSummary (q : List Notice) : List Notice :=
  if q.any Notice.isClosure then
    q.takeWhile (fun n => !n.isClosure) ++
      .summary :: (q.dropWhile fun n => !n.isClosure).filter fun n => !n.isClosure
  else q ++ [.summary]

/-- Queue a SUMMARY where the queue holds none; a closure notice in an attempt stays where it is (R117). -/
def Bus.queueSummary (b : Bus) : Bus :=
  let b := { b with refresh := false }
  match b.sending, b.queue with
  | some _, front :: rest => { b with queue := front :: placeSummary rest }
  | _, [] => b.newFront [.summary]
  | none, front :: rest =>
    if front.isClosure then b.newFront (placeSummary (front :: rest))
    else { b with queue := placeSummary (front :: rest) }

/-- A SUMMARY asked for on joining or by the heartbeat (R118, R119). -/
def Bus.askSummary (b : Bus) : Bus := if b.hasSummary then b else b.queueSummary

/-- The refresh mark is set where the SUMMARY is in an attempt (R117). -/
def Bus.markRefresh (b : Bus) : Bus := if b.summarySending then { b with refresh := true } else b

/-- A SUMMARY asked for by a forced departure (R100, R117). -/
def Bus.askSummaryForced (b : Bus) : Bus := if b.hasSummary then b.markRefresh else b.queueSummary

/-- A closure notice handed on: absorbed while the queue holds a SUMMARY, else it joins at the back (R117). -/
def Bus.handOnClosure (b : Bus) (n : Notice) : Bus := if b.hasSummary then b.markRefresh else b.join n

/-- The INTENT notice of a cancelled intent leaves the queue; an attempt of it is abandoned (R91, R113, R120). -/
def Bus.dropIntent (b : Bus) (id : IntentId) : Bus :=
  match b.queue with
  | [] => b
  | front :: rest =>
    let others := rest.filter fun n => !n.isIntentOf id
    if front.isIntentOf id then { b.newFront others with sending := none } else { b with queue := front :: others }

/-- The bus controller on entry to QUIET: attempt abandoned, queue emptied, heartbeat stopped, attempt count and refresh mark
cleared; the sequence counter keeps its value (R121). -/
def Bus.silence (b : Bus) : Bus := { b.newFront [] with refresh := false, sending := none, heartbeat := none }

/-- The backoff B after so many failed attempts, in bit times (R112). -/
def backoff (station : StationNo) (attempts : Nat) : Nat := (station.val + 1) * 16 + min (attempts - 1) 7 * 128

/-- The idle time the front notice waits for (R111). -/
def attemptWait (station : StationNo) (attempts : Nat) : Nat :=
  if attempts = 0 then Config.idleGap else backoff station attempts

/-- Whether an intent has been announced: ANNOUNCED or OVERDUE (R95, R114). -/
def Intent.isAnnounced (it : Intent) : Bool := it.state != .unannounced

/-- The intent list of a SUMMARY: every announced own intent, in ascending order of id (R114). -/
def summaryList (t : IntentTable) : List IntentEntry :=
  (List.finRange 16).filterMap fun id =>
    (t.open_.find? fun it => it.id == id && it.isAnnounced).map fun it => ⟨it.id, it.dir, it.delta⟩

/-- What a notice carries when read at the start of an attempt (R114). -/
def noticeBody (s : State) : Notice → FrameBody
  | .intent e => .intent e
  | .settle id => .settle id s.units.sums
  | .retract id => .retract id
  | .summary => .summary s.units.sums s.units.parkedCount (summaryList s.intents)

end Sys2Proof.Machine
end

