-- ==== Sys2Proof/Machine/IntentOps.lean ====
section
/-! DEFINITION. The intent table's shared operations (chapter 5): opening, announcing, cancelling and freeing an intent. -/

namespace Sys2Proof.Machine

/-- The first id from `i` upward, 15 counting up to 0, that none of the given ids holds (R89); `n` ids are tried at most. -/
def firstFree (taken : List IntentId) : Nat → IntentId → IntentId
  | 0, i => i
  | n + 1, i => if taken.contains i then firstFree taken n (i + 1) else i

/-- The id the next intent receives (R89). -/
def IntentTable.nextId (t : IntentTable) : IntentId := firstFree (t.open_.map Intent.id) 16 (t.counter + 1)

/-- The open intent with an id. -/
def IntentTable.find (t : IntentTable) (id : IntentId) : Option Intent := t.open_.find? fun it => it.id == id

/-- The open intent of the record with a tag (R87). -/
def IntentTable.ofTag (t : IntentTable) (tag : Tag) : Option Intent := t.open_.find? fun it => it.tag == tag

/-- The table without the intent of an id. -/
def IntentTable.free (t : IntentTable) (id : IntentId) : IntentTable := { t with open_ := t.open_.filter fun it => it.id != id }

/-- The table with an intent's state changed. -/
def IntentTable.setState (t : IntentTable) (id : IntentId) (st : IntentState) : IntentTable :=
  { t with open_ := updateFirst (fun it => it.id == id) (fun it => { it with state := st }) t.open_ }

/-- Open an UNANNOUNCED intent for the record of a tag and queue its INTENT notice (R90 steps 2 and 3). -/
def openIntent (dir : Direction) (tag : Tag) (delta : Quad) (s : State) : State :=
  let id := s.intents.nextId
  { s with
    intents := { open_ := s.intents.open_ ++ [⟨id, dir, tag, delta, .unannounced⟩], counter := id }
    bus := s.bus.join (.intent ⟨id, dir, delta⟩) }

/-- What the freeing of an intent hands on: the deferred lane of its record, the held entries, the limit-excess state
(R101). The gate is derived. -/
def freed (im : Image) (lane : Nat) (s : State) : State := settle (releaseHeld (applyPending im lane s))

/-- Hand a closure notice to the bus controller, which takes it only while the station is JOINED (R102). -/
def handOn (n : Notice) (s : State) : State :=
  if s.control.station = .joined then { s with bus := s.bus.handOnClosure n } else s

/-- The lane of the record with a tag. -/
def laneOfTag (s : State) (tag : Tag) : Nat := ((s.units.find tag).map UnitRecord.lane).getD 0

/-- The entry of a cancelled intent: WAITING, its id cleared; an arrival holds its unit record again (R32, R91 step 4). -/
def Entry.putBack (unit : Option UnitId) (e : Entry) : Entry :=
  { e with
    state := .waiting
    ask := match e.ask, unit with
      | .placedArrival _, some u => .arrival u
      | .placedArrival t, none => .placedArrival t
      | .arrival u, _ => .arrival u
      | .departure t, _ => .departure t }

/-- Whether an entry is PLACING under an id. -/
def Entry.isPlacingFor (id : IntentId) (e : Entry) : Bool := e.state == .placing id

/-- The record of a cancelled intent: out of its lane, or back to PARKED (R91 step 2). -/
def cancelRecord (im : Image) (it : Intent) (s : State) : State :=
  match it.dir, s.units.find it.tag with
  | .place, some r => removeRecord im r s
  | .place, none => s
  | .remove, _ => { s with units := s.units.putBack it.tag }

/-- The unit record that a cancelled PLACE intent gives back to its entry (R32). -/
def unitGivenBack (s : State) (it : Intent) : Option UnitId :=
  match it.dir with
  | .place => (s.units.find it.tag).map UnitRecord.unit
  | .remove => none

/-- R91, steps 1 to 4: notice, record, intent and entry of a cancelled intent. -/
def cancelSteps (im : Image) (it : Intent) (s : State) : State :=
  let t := cancelRecord im it { s with bus := s.bus.dropIntent it.id }
  { t with
    intents := t.intents.free it.id
    intake := updateFirst (Entry.isPlacingFor it.id) (Entry.putBack (unitGivenBack s it)) t.intake }

/-- A cancellation whole: its four steps, what the freeing hands on (R91 step 5), with LANE ENTRY APPLIED the first of its reports
(R150), and last the refusal of the entry where it is marked and there is room (R35; its place: DESIGN CHOICE, log entry 11). -/
def cancelIntent (im : Image) (it : Intent) (s : State) : State :=
  refuseMarked (freed im (laneOfTag s it.tag) (cancelSteps im it s))

/-- The report of an announcement (R93); the intent is counted in full in the list figure (R81). -/
def announcementReport (im : Image) (it : Intent) (s : State) : Report :=
  match it.dir with
  | .place =>
    .placed it.tag (laneOfTag s it.tag) (((s.units.find it.tag).map UnitRecord.offset).getD 0) it.id (listFigure s im)
  | .remove => .departureCleared it.tag it.id

/-- An UNANNOUNCED intent is announced: lifetime timer from 0, entry out of the queue, report posted (R92, R93). -/
def announce (im : Image) (it : Intent) (s : State) : State :=
  let t := { s with
    intents := s.intents.setState it.id (.announced 0)
    intake := s.intake.eraseP (Entry.isPlacingFor it.id) }
  post (announcementReport im it t) t

/-- An intent leaves the table and its id becomes free (R96 to R99). -/
def freeIntent (id : IntentId) (s : State) : State := { s with intents := s.intents.free id }

/-- A PENDING record becomes PARKED and counts in the deck sums (R96). -/
def parkRecord (r : UnitRecord) (s : State) : State := { s with units := s.units.park r }

/-- A LEAVING record returns to PARKED (R99). -/
def returnRecord (r : UnitRecord) (s : State) : State := { s with units := s.units.putBack r.unit.tag }

/-- REPORT PARKED taken (R96). -/
def closeParked (im : Image) (r : UnitRecord) (it : Intent) (s : State) : State :=
  freed im r.lane (handOn (.settle it.id) (freeIntent it.id (parkRecord r s)))

/-- REPORT ABANDONED taken (R97). -/
def closeAbandoned (im : Image) (r : UnitRecord) (it : Intent) (s : State) : State :=
  freed im r.lane (handOn (.retract it.id) (freeIntent it.id (removeRecord im r s)))

/-- REPORT DEPARTED taken with its force flag clear, or forced on an announced intent (R98, R100). -/
def closeDeparted (im : Image) (r : UnitRecord) (it : Intent) (s : State) : State :=
  freed im r.lane (handOn (.settle it.id) (freeIntent it.id (removeRecord im r s)))

/-- REPORT STAYED taken (R99). -/
def closeStayed (im : Image) (r : UnitRecord) (it : Intent) (s : State) : State :=
  freed im r.lane (handOn (.retract it.id) (freeIntent it.id (returnRecord r s)))

/-- Whether an entry is a DEPARTURE, WAITING or HELD, that names a tag (R36). -/
def Entry.departureOf (tag : Tag) (e : Entry) : Bool := e.ask == .departure tag && !e.isPlacing

/-- A DEPARTURE entry, WAITING or HELD, that names a tag leaves the queue with no report (R36). -/
def dropDeparture (tag : Tag) (s : State) : State := { s with intake := s.intake.eraseP (Entry.departureOf tag) }

/-- Ask for the SUMMARY of a forced departure, where the station is JOINED (R100 step 3). -/
def summaryForced (s : State) : State :=
  if s.control.station = .joined then { s with bus := s.bus.askSummaryForced } else s

/-- The removal of a PARKED record by a forced departure, steps 1 to 3 of R100. -/
def forceOut (im : Image) (r : UnitRecord) (s : State) : State :=
  summaryForced (dropDeparture r.unit.tag (removeRecord im r s))

/-- A forced departure of a PARKED record (R100). -/
def forceParked (im : Image) (r : UnitRecord) (s : State) : State := settle (releaseHeld (forceOut im r s))

/-- A forced departure of a record LEAVING under an UNANNOUNCED intent: the intent is cancelled, the record removed, its entry
removed, and then the freed intent hands on what R101 gives (R100; order: DESIGN CHOICE, log entry 12). -/
def forceUnannounced (im : Image) (r : UnitRecord) (it : Intent) (s : State) : State :=
  freed im r.lane (forceOut im r (cancelSteps im it s))

end Sys2Proof.Machine
end

