-- ==== Sys2Proof/Machine/Evaluate.lean ====
section
/-! DEFINITION. The placement evaluator (chapter 3): the lane checks C1 to C11, the score, the outcome of an arrival, the departure
checks and the pre-send re-check. -/

namespace Sys2Proof.Machine

/-- The lane checks in their order (R42). -/
inductive Check where
  | dimensions
  | axle
  | power
  | room
  | order
  | apart
  | deckMass
  | laneState
  | profile
  | reservation
  | shipLimits
deriving DecidableEq, Repr

/-- The number of a check (R42). -/
def Check.number : Check → Nat
  | .dimensions => 1
  | .axle => 2
  | .power => 3
  | .room => 4
  | .order => 5
  | .apart => 6
  | .deckMass => 7
  | .laneState => 8
  | .profile => 9
  | .reservation => 10
  | .shipLimits => 11

/-- A candidate for a lane: the unit, its offset and contributions, the records it is checked against, and the own intent it
already has, if any (R39, R65). -/
structure Candidate where
  unit : UnitId
  lane : Nat
  offset : Nat
  contrib : Quad
  others : List UnitRecord
  skip : Option IntentId
deriving DecidableEq, Repr

/-- C1 DIMENSIONS (R43). -/
def fitsDimensions (s : State) (im : Image) (c : Candidate) : Bool :=
  c.unit.width ≤ (im.lane c.lane).width && c.unit.height ≤ s.units.clearance (im.lane c.lane)

/-- C2 AXLE (R44). -/
def fitsAxle (im : Image) (c : Candidate) : Bool := c.unit.axle ≤ (im.lane c.lane).axle

/-- C3 POWER (R45). -/
def fitsPower (im : Image) (c : Candidate) : Bool := !c.unit.power || c.offset < (im.lane c.lane).powered

/-- C4 ROOM (R46, R65): within the lane, fewer than 40 other records in it, and a free record in the pool. -/
def fitsRoom (im : Image) (c : Candidate) : Bool :=
  c.offset + c.unit.length ≤ (im.lane c.lane).len && (onLane c.others c.lane).length < Config.laneCap &&
    c.others.length < Config.poolSize

/-- Whether a port may follow the lane's newest record in the lane's order (R47, R178 step 6). -/
def orderAllows (order : OrderKind) (newest : Option UnitRecord) (port : Nat) : Bool :=
  match newest, order with
  | none, _ => true
  | some r, .through => r.unit.port ≤ port
  | some r, .blind => port ≤ r.unit.port

/-- C5 ORDER (R47). -/
def fitsOrder (im : Image) (c : Candidate) : Bool :=
  orderAllows (im.lane c.lane).order (newestOn c.others c.lane) c.unit.port

/-- The gap between a candidate's and a record's longitudinal intervals in ship x (R48). -/
def gapTo (im : Image) (c : Candidate) (r : UnitRecord) : Int :=
  let d := im.lane c.lane
  let e := im.lane r.lane
  max 0 (max (afterEnd d c.offset c.unit.length) (afterEnd e r.offset r.unit.length) -
    min (forwardEnd d c.offset) (forwardEnd e r.offset))

/-- Whether a lane is the given lane or one of its neighbours (R2, R48). -/
def nearLane (lane other : Nat) : Bool := other == lane || other == lane + 1 || other + 1 == lane

/-- C6 APART (R48). -/
def fitsApart (im : Image) (c : Candidate) : Bool :=
  c.others.all fun r =>
    !(nearLane c.lane r.lane && marked im.matrix c.unit.group r.unit.group) || (im.apart : Int) ≤ gapTo im c r

/-- C7 DECK MASS (R49, R65). -/
def fitsDeckMass (im : Image) (c : Candidate) : Bool := recordMass c.others + c.unit.mass ≤ im.dMax

/-- C8 LANE STATE (R50). -/
def laneOpen (p : PlanStore) (lane : Nat) : Bool :=
  !(p.active.entry lane).closed && !(p.lane lane).blocked && !p.deferred lane

/-- C9 PROFILE (R51). -/
def profileAdmits (p : Profile) (u : UnitId) : Bool :=
  p.kinds.getLsbD u.kind.code && p.groups.getLsbD u.group && (!u.unverified || p.unverified)

/-- C10 RESERVATION (R52). -/
def reservedFor (e : PlanEntry) (port : Nat) : Bool :=
  match e.reserved with
  | none => true
  | some p => p == port

/-- The eleven checks with what each answers for a candidate (R42). -/
def laneChecks (s : State) (im : Image) (c : Candidate) : List (Check × Bool) :=
  [(.dimensions, fitsDimensions s im c), (.axle, fitsAxle im c), (.power, fitsPower im c), (.room, fitsRoom im c),
    (.order, fitsOrder im c), (.apart, fitsApart im c), (.deckMass, fitsDeckMass im c),
    (.laneState, laneOpen s.plans c.lane), (.profile, profileAdmits (effectiveProfile im s.plans c.lane) c.unit),
    (.reservation, reservedFor (s.plans.active.entry c.lane) c.unit.port),
    (.shipLimits, limitCheck s im c.skip c.contrib)]

/-- The check a lane reaches: the first that fails, or none where the lane passes (R39, R42). -/
def reached (s : State) (im : Image) (c : Candidate) : Option Check :=
  ((laneChecks s im c).find? fun x => !x.2).map Prod.fst

/-- The candidate of an arrival for a lane, at the lane's occupied length (R39). -/
def candidateFor (s : State) (im : Image) (unit : UnitId) (lane : Nat) : Candidate :=
  let offset := occupied im.gap s.units.records lane
  { unit := unit, lane := lane, offset := offset, contrib := contributions im lane offset unit,
    others := s.units.records, skip := none }

/-! ### Score and outcome -/

/-- The list term eH (R56). -/
def listTerm (im : Image) (tExp : Int) : Nat :=
  if im.tMax = 0 then (if tExp = 0 then 0 else 1000) else min 1000 (tExp.natAbs * 1000 / im.tMax.toNat)

/-- The trim term eT (R56). -/
def trimTerm (view : ShipView) (lExp : Int) : Nat :=
  let off := (2 * lExp - (view.wMin + view.wMax)).natAbs
  if view.wMin = view.wMax then (if off = 0 then 0 else 1000)
  else min 1000 (off * 1000 / (view.wMax - view.wMin).toNat)

/-- The order term eO (R57). -/
def orderTerm (newest : Option UnitRecord) (port : Nat) : Nat :=
  match newest with
  | none => 500
  | some r => if r.unit.port = port then 0 else 1000

/-- The fill term eF (R57). -/
def fillTerm (d : LaneDesc) (c : Candidate) : Nat := (d.len - (c.offset + c.unit.length)) * 1000 / d.len

/-- The score of a lane that passes (R55). -/
def score (s : State) (im : Image) (c : Candidate) : Nat :=
  let p := effectiveProfile im s.plans c.lane
  let e := expectedView s im c.contrib
  p.wH * listTerm im e.t + p.wT * trimTerm s.view e.l +
    p.wO * orderTerm (newestOn c.others c.lane) c.unit.port + p.wF * fillTerm (im.lane c.lane) c

/-- The candidate with the lowest score, the earlier one where scores are equal (R55). -/
def lowestScore (s : State) (im : Image) : List Candidate → Option Candidate
  | [] => none
  | c :: rest =>
    match lowestScore s im rest with
    | none => some c
    | some d => if score s im c ≤ score s im d then some c else some d

/-- The outcome of evaluating an arrival (R30). -/
inductive Decision where
  | place (c : Candidate)
  | held (reason : HoldReason)
  | refused (reason : RefusedReason)
deriving DecidableEq, Repr

/-- The hold reason of a waiting check; none for a fixed check (R60). -/
def Check.holdReason : Check → Option HoldReason
  | .laneState => some .laneState
  | .profile => some .profile
  | .reservation => some .reservation
  | .shipLimits => some .shipLimits
  | .dimensions | .axle | .power | .room | .order | .apart | .deckMass => none

/-- The reason of a refusal at a fixed check; a waiting check has none and does not stand here (R59). -/
def Check.refusedReason : Check → RefusedReason
  | .dimensions => .dimensions
  | .axle => .axle
  | .power => .power
  | .room => .room
  | .order => .order
  | .apart => .apart
  | .deckMass | .laneState | .profile | .reservation | .shipLimits => .deckMass

/-- The higher-numbered of two checks. -/
def Check.higher (a b : Check) : Check := if a.number < b.number then b else a

/-- The outcome where no lane passes, from the checks the lanes reached: HELD with the highest waiting check, or REFUSED with the
highest fixed check. Waiting checks are numbered above all fixed ones, so the highest check reached decides (R59, R60). -/
def failOutcome (checks : List Check) : Decision :=
  let top := checks.foldl Check.higher .dimensions
  match top.holdReason with
  | some reason => .held reason
  | none => .refused top.refusedReason

/-- The candidates of every lane of the deck, lane 0 first (R39). -/
def candidates (s : State) (im : Image) (unit : UnitId) : List Candidate :=
  (List.range im.laneCount).map (candidateFor s im unit)

/-- The outcome of an arrival (R54, R55, R58 to R60). -/
def outcomeOf (s : State) (im : Image) (unit : UnitId) : Decision :=
  let cs := candidates s im unit
  let passing := cs.filter fun c => (reached s im c).isNone
  match passing.find? fun c => some c.lane == unit.preferred with
  | some c => .place c
  | none =>
    match lowestScore s im passing with
    | some c => .place c
    | none => failOutcome (cs.filterMap (reached s im))

/-! ### Applying an outcome -/

/-- Whether the evaluator may take an entry: WAITING with its expired mark clear (R29). -/
def Entry.takeable (e : Entry) : Bool := e.state == .waiting && !e.expired

/-- The entry the evaluator takes: the oldest that it may take (R29). -/
def taken (s : State) : Option Entry := s.intake.find? Entry.takeable

/-- The taken entry changed in its place. -/
def updateTaken (f : Entry → Entry) (s : State) : State := { s with intake := updateFirst Entry.takeable f s.intake }

/-- The taken entry refused: removed, with a REFUSED report (R30, R31). -/
def refuseTaken (tag : Tag) (reason : RefusedReason) (s : State) : State :=
  post (.refused tag reason) { s with intake := s.intake.eraseP Entry.takeable }

/-- The record a PLACE outcome inserts (R14). -/
def Candidate.record (c : Candidate) : UnitRecord := ⟨c.unit, c.lane, c.offset, c.contrib, .pending⟩

/-- PLACE (R58): the PENDING record, the UNANNOUNCED intent with its notice, the entry PLACING, the state settled. -/
def applyPlace (im : Image) (c : Candidate) (s : State) : State :=
  let t := openIntent .place c.unit.tag c.contrib (insertRecord im c.record s)
  settle (updateTaken (fun e => { e with ask := .placedArrival c.unit.tag, state := .placing t.intents.counter }) t)

/-- The outcome of an arrival applied (R30). -/
def applyArrival (im : Image) (unit : UnitId) (s : State) : State :=
  match outcomeOf s im unit with
  | .place c => applyPlace im c s
  | .held reason => updateTaken (fun e => { e with state := .held reason }) s
  | .refused reason => refuseTaken unit.tag reason s

/-- D2 EXIT (R61). -/
def isExit (s : State) (im : Image) (r : UnitRecord) : Bool :=
  ((exitUnit im s.units.records r.lane).map fun x => x.unit.tag) == some r.unit.tag

/-- D3 BLOCK (R62). -/
def laneUnblocked (s : State) (r : UnitRecord) : Bool := !(s.plans.lane r.lane).blocked

/-- A departure that passes (R63): the record LEAVING, the UNANNOUNCED REMOVE intent with its notice, the entry PLACING. -/
def applyRemove (r : UnitRecord) (s : State) : State :=
  let t := openIntent .remove r.unit.tag r.contrib.neg { s with units := s.units.setState r.unit.tag .leaving }
  settle (updateTaken (fun e => { e with state := .placing t.intents.counter }) t)

/-- The outcome of a departure applied: D2, D3, D4 in order (R31, R61 to R63). -/
def applyDeparture (im : Image) (r : UnitRecord) (s : State) : State :=
  if !isExit s im r then refuseTaken r.unit.tag .notAtExit s
  else if !laneUnblocked s r then updateTaken (fun e => { e with state := .held .laneState }) s
  else if !limitCheck s im none r.contrib.neg then updateTaken (fun e => { e with state := .held .shipLimits }) s
  else applyRemove r s

/-! ### The pre-send re-check -/

/-- The candidate of a re-check of a PLACE intent: its PENDING record against the deck without it (R65). -/
def recheckCandidate (s : State) (it : Intent) (r : UnitRecord) : Candidate :=
  { unit := r.unit, lane := r.lane, offset := r.offset, contrib := r.contrib,
    others := s.units.records.filter fun x => x.unit.tag != r.unit.tag, skip := some it.id }

/-- The pre-send re-check of an intent (R64 to R66); an intent whose record is not held fails it (R88 excludes that). -/
def recheck (s : State) (im : Image) (it : Intent) : Bool :=
  peersAllow im s.peers &&
    match s.units.find it.tag, it.dir with
    | none, _ => false
    | some r, .place => (reached s im (recheckCandidate s it r)).isNone
    | some r, .remove => isExit s im r && laneUnblocked s r && limitCheck s im (some it.id) it.delta

end Sys2Proof.Machine
end

