-- ==== Sys2Proof/Machine/StationOps.lean ====
section
/-! DEFINITION. The station control's shared operations (chapter 10): reset and its leaving, the start of a try, the entries to
LISTENING, JOINED and QUIET. -/

namespace Sys2Proof.Machine

/-! ### Reset -/

/-- Every block at its reset value, the part held in reset (R172); the queue of waiting commands and the count of free values
drawn are the model's own and are kept (DESIGN CHOICE, log entry 19). -/
def resetAll (s : State) : State := { State.reset with fresh := s.fresh, pending := s.pending }

/-- Freeing the link: nine clock pulses with the data line released, then a stop condition (R173). -/
def freeLink : List LinkOp := [.pulses 9, .stop]

/-- The start of a try: start condition, address byte for writing, memory address 0, repeated start, address byte for
reading (R173). -/
def tryStart : List LinkOp :=
  [.start, .send Config.memoryWrite, .send 0x00, .send 0x00, .start, .send Config.memoryRead]

/-- The part of a try's start that was driven when a byte of it was left unacknowledged (R173; nothing after it: DESIGN CHOICE, log
entry 14). -/
def tryCut : Unacknowledged → List LinkOp
  | .writeAddress => tryStart.take 2
  | .memoryHigh => tryStart.take 3
  | .memoryLow => tryStart.take 4
  | .readAddress => tryStart

/-- So many bytes taken, every one acknowledged but the last, then a stop condition (R173). -/
def takeBytes (count : Nat) : List LinkOp := [.takeAcked (count - 1), .takeLast, .stop]

/-- The loader frees the link and makes a try (R173). -/
def beginTry (s : State) : State :=
  { s with control := { s.control with loader := .trying, link := freeLink ++ tryStart } }

/-- The part leaves reset: PANEL state and SWITCH level from their lines, the image load begun (R3, R147, R172, R173). -/
def leave (panel switch : Bool) (s : State) : State :=
  beginTry { s with
    control := { s.control with held := false }
    units := { s.units with lowered := panel }
    plans := { s.plans with switchLevel := switch } }

/-! ### The end of the image load -/

/-- Whether a try of the image read is in progress. -/
def State.loadTrying (s : State) : Bool :=
  !s.control.held && s.control.station == .loading && s.control.loader == .trying

/-- The station enters FAULTED (R173, R174). -/
def enterFaulted (code : FaultCode) (s : State) : State :=
  { s with control := { s.control with station := .faulted, fault := some code, loader := .off } }

/-- The record of an expected peer as the load creates it (R140). -/
def Peer.fresh (n : StationNo) : Peer := ⟨n, .unheard, none, Quad.zero, 0, [], .stopped⟩

/-- The expected peers: the numbers of the expected set other than the station's own (R123). -/
def Image.expectedPeers (im : Image) : List StationNo :=
  (List.finRange 8).filter fun n => im.expected.getLsbD n.val && n != im.stationNo

/-- The plan store as the load leaves it: three initial plans, no lane deferred or blocked, each near-full state by its lane's
whole length (R155). -/
def planStart (im : Image) (p : PlanStore) : PlanStore :=
  let q := { p with active := im.plan, stagedA := im.plan, stagedB := im.plan, lanes := [] }
  { q with
    lanes := (List.range im.laneCount).map fun lane => ⟨none, false, (im.lane lane).len < threshold im q lane⟩ }

/-- The load is complete: LISTENING, every block with its part of the image, the listen timer from 0, the limit-excess state
settled last (R85, R140, R155, R175). -/
def enterListening (im : Image) (s : State) : State :=
  settle { s with
    control := { s.control with station := .listening, restoreMark := false, listen := some 0, loader := .off }
    image := some im
    view := { s.view with wMin := im.wMin, wMax := im.wMax }
    peers := ⟨im.expectedPeers.map Peer.fresh, []⟩
    plans := planStart im s.plans }

/-! ### Joining and going QUIET -/

/-- The station becomes JOINED: a SUMMARY queued, the heartbeat timer from 0, held entries released (R118, R119, R179). -/
def enterJoined (s : State) : State :=
  releaseHeld { s with
    control := { s.control with station := .joined }
    bus := { s.bus.askSummary with heartbeat := some 0 } }

/-- The listen timer runs out: RESTORING where the mark is set, and the mark cleared; else JOINED (R177). -/
def listenOver (s : State) : State :=
  let t := { s with control := { s.control with listen := none } }
  if s.control.restoreMark then { t with control := { t.control with station := .restoring, restoreMark := false } }
  else enterJoined t

/-- The station enters QUIET on a frame with its own number (R36, R121, R137): DUPLICATE NUMBER, the bus controller silenced, an
UNANNOUNCED intent cancelled with its effects; a listen timer is stopped (R177), the restore mark kept (DESIGN CHOICE, log entry 13). -/
def enterQuiet (im : Image) (s : State) : State :=
  let t := post (.duplicateNumber im.stationNo) s
  let u := { t with
    control := { t.control with station := .quiet, listen := none }
    bus := t.bus.silence }
  match u.intents.open_.find? fun it => it.state == .unannounced with
  | none => u
  | some it => cancelIntent im it u

end Sys2Proof.Machine
end

