-- ==== Sys2Proof/Machine/PeerOps.lean ====
section
/-! DEFINITION. The peer table (chapter 7): taking in a valid frame, the classes and lock states, and what a change of a record
hands on. -/

namespace Sys2Proof.Machine

/-- The classes of a frame from an expected peer (R126). -/
inductive FrameClass where
  | summary
  | repeated
  | inSequence
  | outOfSequence
deriving DecidableEq, Repr

/-- The class of a frame for a record (R126). -/
def Peer.classOf (p : Peer) (f : Frame) : FrameClass :=
  match f.body, p.lastSeq with
  | .summary _ _ _, _ => .summary
  | .intent _, none | .settle _ _, none | .retract _, none => .outOfSequence
  | .intent _, some q | .settle _ _, some q | .retract _, some q =>
    if f.seq = q then .repeated else if f.seq = q + 1 then .inSequence else .outOfSequence

/-- Whether an id is recorded. -/
def Peer.records (p : Peer) (id : IntentId) : Bool := p.recorded.any fun e => e.id == id

/-- The recorded intents without an id. -/
def Peer.without (p : Peer) (id : IntentId) : List IntentEntry := p.recorded.filter fun e => e.id != id

/-- An INTENT that overflows the recorded intents (R130). -/
def Peer.overflows (p : Peer) (e : IntentEntry) : Bool := !p.records e.id && Config.recordedCap ≤ p.recorded.length

/-- The contents of an applied frame in the record (R127, R130, R131). -/
def Peer.apply (p : Peer) : FrameBody → Peer
  | .summary sums parked es => { p with sums := sums, parked := parked, recorded := es }
  | .intent e =>
    { p with recorded := (if p.overflows e then p.recorded.drop 1 else p.without e.id) ++ [e] }
  | .settle id sums => { p with recorded := p.without id, sums := sums }
  | .retract id => { p with recorded := p.without id }

/-- Whether an applied body overflows the record (R130). -/
def Peer.overflowsBody (p : Peer) : FrameBody → Bool
  | .intent e => p.overflows e
  | .summary _ _ _ | .settle _ _ | .retract _ => false

/-- The lock state after a frame (R127 to R130). -/
def Peer.lockAfter (p : Peer) (f : Frame) : Lock :=
  match p.classOf f, p.lock with
  | .summary, _ => .locked
  | .repeated, k => k
  | .inSequence, .locked => if p.overflowsBody f.body then .doubtful else .locked
  | .inSequence, k => k
  | .outOfSequence, .locked => .doubtful
  | .outOfSequence, .doubtful => .lost
  | .outOfSequence, .lost => .lost
  | .outOfSequence, .unheard => .unheard

/-- A record after a valid frame of its peer: the silence timer restarted, and the frame applied unless it is a repeat (R126). -/
def Peer.take (p : Peer) (f : Frame) : Peer :=
  let q := { p with silence := .running 0 }
  match p.classOf f with
  | .repeated => q
  | .summary | .inSequence | .outOfSequence => { q.apply f.body with lock := p.lockAfter f, lastSeq := some f.seq }

/-- Whether two lists of recorded intents hold the same set (R134). -/
def sameRecorded (a b : List IntentEntry) : Bool := a.all (fun e => b.contains e) && b.all fun e => a.contains e

/-- Whether a record has changed: point sums, set of recorded intents, or lock state (R134). -/
def Peer.changed (before after : Peer) : Bool :=
  before.sums != after.sums || !sameRecorded before.recorded after.recorded || before.lock != after.lock

/-- The peer report of a change of lock state (R127, R129, R133, R135). -/
def peerReport (before after : Peer) : Option Report :=
  if before.lock != .lost && after.lock == .lost then some (.peerLost before.number)
  else if before.lock == .lost && after.lock == .locked then some (.peerRegained before.number)
  else none

/-- Post a report where there is one. -/
def postIf (r : Option Report) (s : State) : State :=
  match r with
  | none => s
  | some r => post r s

/-- The record of a station number. -/
def PeerTable.find (t : PeerTable) (n : StationNo) : Option Peer := t.peers.find? fun p => p.number == n

/-- The table with a record replaced. -/
def PeerTable.put (t : PeerTable) (after : Peer) : PeerTable :=
  { t with peers := updateFirst (fun p => p.number == after.number) (fun _ => after) t.peers }

/-- A record replaced, and what its change hands on: the peer report, the held entries, the limit-excess state (R134). -/
def putPeer (before after : Peer) (s : State) : State :=
  let t := { s with peers := s.peers.put after }
  if Peer.changed before after then settle (releaseHeld (postIf (peerReport before after) t)) else t

/-- A frame from a number neither own nor expected: the first one joins the stray set and posts STRAY STATION (R136). -/
def takeStray (n : StationNo) (s : State) : State :=
  if s.peers.stray.contains n then s
  else post (.strayStation n) { s with peers := { s.peers with stray := s.peers.stray ++ [n] } }

/-- A valid frame handed to the peer table, sorted by its station number (R125). -/
def takeFrame (im : Image) (f : Frame) (s : State) : State :=
  if f.station = im.stationNo then
    if s.control.station.working then enterQuiet im s else s
  else
    match s.peers.find f.station with
    | some p => putPeer p (p.take f) s
    | none => takeStray f.station s

/-- The line once a received frame has been judged: what follows before it is idle forms no frame, and every wait for the line
starts again (R106, R108, R112). -/
def lineJudged (s : State) : State := { s with bus := { s.bus with line := .judged } }

/-- Whether a run on the line is a received frame: the part is not held in reset, and the run began on an idle line and has not
been judged yet (R108, R122). -/
def hearing (s : State) : Bool := !s.control.held && (s.bus.line == .idle || s.bus.line == .running)

/-- Whether a valid frame is handed to the peer table: by the station state at its first start bit, and by the state now, since
LOADING and FAULTED discard every frame (R109, R122, R173, R176; DEDUCED, log entry 10). -/
def handsOver (s : State) (head : FrameHead) : Bool := head.inService && s.control.station.serving

/-- A received frame (R108, R109): one whose contents break an encoding is invalid and is line activity alone. -/
def receive (head : FrameHead) (body : FrameBody) (s : State) : Result :=
  event s (hearing s) fun s =>
    let t := lineJudged s
    match s.image with
    | none => t
    | some im => if handsOver s head && body.valid then takeFrame im ⟨head.station, head.seq, body⟩ t else t

end Sys2Proof.Machine
end

