-- ==== Sys2Proof/Machine/BusEvents.lean ====
section
/-! DEFINITION. The meanings of the bus and peer events (chapters 6 and 7): HEARTBEAT_EXPIRY, ATTEMPT_START, COLLISION,
ATTEMPT_COMPLETE, INVALID_FRAME, LINE_IDLE, RECEIVE_SUMMARY, RECEIVE_INTENT, RECEIVE_SETTLE, RECEIVE_RETRACT, SILENCE_EXPIRY. -/

namespace Sys2Proof.Machine

/-- HEARTBEAT_EXPIRY (R119): a SUMMARY is asked for and the timer starts again. -/
def execHeartbeatExpiry (s : State) : Result :=
  match s.image with
  | none => .next s
  | some im =>
    event s (reachedLimit im.heartbeat s.bus.heartbeat) fun s =>
      { s with bus := { s.bus.askSummary with heartbeat := some 0 } }

/-- Whether the front notice's attempt may start: JOINED, no attempt in progress, the line idle, and idle for the notice's waiting
time (R111, R112). How many bit times it has been idle since the end of line activity is the command's to say (DESIGN CHOICE, log
entry 9). -/
def mayAttempt (s : State) (im : Image) (idleBits : Nat) : Bool :=
  !s.control.held && s.control.station == .joined && s.bus.sending.isNone && s.bus.line == .idle &&
    attemptWait im.stationNo s.bus.attempts ≤ idleBits

/-- The number an attempt carries: the one the notice has, or the counter's value at its first attempt (R115). -/
def Bus.attemptSeq (b : Bus) : Byte := b.frontSeq.getD b.counter

/-- The frame an attempt sends (R107, R114). -/
def attemptFrame (s : State) (im : Image) (n : Notice) : Frame := ⟨im.stationNo, s.bus.attemptSeq, noticeBody s n⟩

/-- An attempt is made (R111 steps 2 to 4). -/
def beginAttempt (im : Image) (n : Notice) (s : State) : State :=
  { s with
    bus := { s.bus with
      frontSeq := some s.bus.attemptSeq
      sending := some (attemptFrame s im n).bytes
      line := .running } }

/-- The start of an attempt for the front notice: an INTENT is checked again first, and cancelled where it fails (R64, R111,
R113). An INTENT notice whose intent is not open (R91 excludes that) leaves the queue (DESIGN CHOICE, log entry
18). -/
def startAttempt (im : Image) (n : Notice) (s : State) : State :=
  match n with
  | .intent e =>
    match s.intents.find e.id with
    | some it => if recheck s im it then beginAttempt im n s else cancelIntent im it s
    | none => { s with bus := s.bus.dropIntent e.id }
  | .summary | .settle _ | .retract _ => beginAttempt im n s

/-- ATTEMPT_START (R111). -/
def execAttemptStart (idleBits : Nat) (s : State) : Result :=
  match s.image, s.bus.queue with
  | some im, n :: _ => event s (mayAttempt s im idleBits) (startAttempt im n)
  | _, _ => .next s

/-- A failed attempt: the line is released, the count rises and stays at 255 once there, a SUMMARY's refresh mark is cleared
(R110, R111, R117). The frame that overrode it goes on being received (R109). -/
def collide (s : State) : State :=
  { s with
    bus := { s.bus with
      sending := none
      attempts := min 255 (s.bus.attempts + 1)
      refresh := if s.bus.summarySending then false else s.bus.refresh } }

/-- COLLISION (R111). -/
def execCollision (s : State) : Result := event s s.bus.sending.isSome collide

/-- The bus controller after a completed attempt: the notice gone, the counter advanced, the next notice the front (R116). -/
def Bus.completed (b : Bus) (rest : List Notice) : Bus :=
  { b.newFront rest with sending := none, counter := b.counter + 1, refresh := false, line := .judged }

/-- The completion of an attempt of the front notice (R92, R116, R117). -/
def complete (im : Image) (n : Notice) (rest : List Notice) (s : State) : State :=
  let t := { s with bus := s.bus.completed rest }
  match n with
  | .summary => if s.bus.refresh then { t with bus := t.bus.join .summary } else t
  | .intent e =>
    match t.intents.find e.id with
    | some it => if it.state = .unannounced then announce im it t else t
    | none => t
  | .settle _ | .retract _ => t

/-- ATTEMPT_COMPLETE (R116). -/
def execAttemptComplete (s : State) : Result :=
  match s.image, s.bus.queue with
  | some im, n :: rest => event s s.bus.sending.isSome (complete im n rest)
  | _, _ => .next s

/-- INVALID_FRAME (R108): discarded; it is line activity and nothing else. -/
def execInvalidFrame (bytes : List RxByte) (s : State) : Result :=
  event s (hearing s && (frameOfBytes bytes).isNone) lineJudged

/-- LINE_IDLE (R106, R122): the line is taken as idle. -/
def execLineIdle (s : State) : Result :=
  event s (!s.control.held && s.bus.sending.isNone) fun s => { s with bus := { s.bus with line := .idle } }

/-- RECEIVE_SUMMARY (R127). -/
def execReceiveSummary (head : FrameHead) (sums : Quad) (parked : Nat) (entries : List IntentEntry) (s : State) : Result :=
  receive head (.summary sums parked entries) s

/-- RECEIVE_INTENT (R130). -/
def execReceiveIntent (head : FrameHead) (entry : IntentEntry) (s : State) : Result := receive head (.intent entry) s

/-- RECEIVE_SETTLE (R131). -/
def execReceiveSettle (head : FrameHead) (id : IntentId) (sums : Quad) (s : State) : Result :=
  receive head (.settle id sums) s

/-- RECEIVE_RETRACT (R131). -/
def execReceiveRetract (head : FrameHead) (id : IntentId) (s : State) : Result := receive head (.retract id) s

/-- The record of a peer whose silence timer reaches the limit (R133). -/
def Peer.fallSilent (p : Peer) : Peer :=
  { p with silence := .atLimit, lock := if p.lock.untrusted then p.lock else .lost }

/-- SILENCE_EXPIRY (R133): the peer's timer has reached the silence limit. A frame of the peer handled before it has restarted the
timer, which then does not expire (R139). -/
def execSilenceExpiry (station : StationNo) (s : State) : Result :=
  match s.image, s.peers.find station with
  | none, _ | _, none => .next s
  | some im, some p => event s (p.silentTooLong im) (putPeer p p.fallSilent)

end Sys2Proof.Machine
end

