-- ==== Sys2Proof/Machine/Closures.lean ====
section
/-! DEFINITION. The meanings of the closure requests and of the intent lifetime (chapter 5): REPORT_PARKED, REPORT_ABANDONED,
REPORT_DEPARTED, FORCED_DEPARTURE, REPORT_STAYED, LIFETIME_EXPIRY. -/

namespace Sys2Proof.Machine

/-- A closure request handled: station state, tag, then record and intent (R95). -/
def requestClosure (tag : Tag) (want : RecordState) (close : Image → UnitRecord → Intent → State → State) (t : State) :
    ReplyCode × State :=
  match t.image with
  | none => (.unavailable, t)
  | some im =>
    if !t.control.station.serving then (.unavailable, t)
    else
      match t.units.find tag, t.intents.ofTag tag with
      | none, _ => (.unknownTag, t)
      | some _, none => (.wrongState, t)
      | some r, some it => if r.state = want ∧ it.isAnnounced = true then (.done, close im r it t) else (.wrongState, t)

/-- REPORT_PARKED (R96). -/
def execReportParked (tag : Tag) (s : State) : Result := serveCode s (requestClosure tag .pending closeParked)

/-- REPORT_ABANDONED (R97). -/
def execReportAbandoned (tag : Tag) (s : State) : Result := serveCode s (requestClosure tag .pending closeAbandoned)

/-- REPORT_DEPARTED (R98). -/
def execReportDeparted (tag : Tag) (s : State) : Result := serveCode s (requestClosure tag .leaving closeDeparted)

/-- REPORT_STAYED (R99). -/
def execReportStayed (tag : Tag) (s : State) : Result := serveCode s (requestClosure tag .leaving closeStayed)

/-- A forced departure of a held record, by the record's state (the table of R100). -/
def forceRecord (im : Image) (r : UnitRecord) (t : State) : ReplyCode × State :=
  match r.state, t.intents.ofTag r.unit.tag with
  | .pending, _ => (.wrongState, t)
  | .parked, _ => (.done, forceParked im r t)
  | .leaving, some it => (.done, if it.isAnnounced then closeDeparted im r it t else forceUnannounced im r it t)
  | .leaving, none => (.wrongState, t)

/-- REPORT DEPARTED with the force flag set handled (R100). -/
def forced (tag : Tag) (t : State) : ReplyCode × State :=
  match t.image with
  | none => (.unavailable, t)
  | some im =>
    if !t.control.station.serving then (.unavailable, t)
    else
      match t.units.find tag with
      | none => (.unknownTag, t)
      | some r => forceRecord im r t

/-- FORCED_DEPARTURE (R100). -/
def execForcedDeparture (tag : Tag) (s : State) : Result := serveCode s (forced tag)

/-- LIFETIME_EXPIRY (R94): an ANNOUNCED intent becomes OVERDUE and an OVERDUE report is posted. -/
def execLifetimeExpiry (id : IntentId) (s : State) : Result :=
  match s.image, s.intents.find id with
  | none, _ | _, none => .next s
  | some im, some it =>
    event s (it.livedOut im) fun s => post (.overdue it.tag id) { s with intents := s.intents.setState id .overdue }

end Sys2Proof.Machine
end

