-- ==== Sys2Proof/Machine/PlanRequests.lean ====
section
/-! DEFINITION. The meanings of the plan, lane and window commands (chapters 1, 4 and 8): SET_TRIM_WINDOW, LOAD_PLAN_ACTIVE,
LOAD_PLAN_STAGED, SELECT_STAGED, SWITCH_PLAN, SWITCH_EDGE, SWITCH_NEGATED, BLOCK_LANE, UNBLOCK_LANE, PANEL_CHANGE. -/

namespace Sys2Proof.Machine

/-- A request that is served in LISTENING, RESTORING and JOINED alone, and UNAVAILABLE otherwise (R71, R144). -/
def whileWorking (t : State) (handle : Image → ReplyCode × State) : ReplyCode × State :=
  match t.image with
  | none => (.unavailable, t)
  | some im => if t.control.station.working then handle im else (.unavailable, t)

/-- The window in force replaced (R71). -/
def replaceWindow (lo hi : Int) (s : State) : State := { s with view := { s.view with wMin := lo, wMax := hi } }

/-- The window replaced, the state settled and held entries released (R71). -/
def putWindow (lo hi : Int) (t : State) : State :=
  releaseHeld (settle (replaceWindow lo hi t))

/-- SET TRIM WINDOW handled (R71). -/
def setWindow (lo hi : Int) (t : State) : ReplyCode × State :=
  whileWorking t fun _ => if windowAcceptable lo hi then (.done, putWindow lo hi t) else (.badValue, t)

/-- SET_TRIM_WINDOW (R71). -/
def execSetTrimWindow (lo hi : BitVec 48) (s : State) : Result := serveCode s (setWindow lo.toInt hi.toInt)

/-- Extent and values of a LOAD PLAN, steps 2 and 3 of R145. -/
def loadAcceptable (im : Image) (first dflt : Byte) (es : List RawEntry) : Bool :=
  first.toNat < im.laneCount && !(es.isEmpty && dflt == 0xFF) && es.all RawEntry.acceptable && dfltAcceptable dflt

/-- The entries and default of a LOAD PLAN written into a staged plan (R145 step 5). -/
def writeStaged (which : Staged) (taken : List (Nat × PlanEntry)) (dflt : Option Nat) (p : PlanStore) : PlanStore :=
  match which with
  | .a => { p with stagedA := p.stagedA.write taken dflt }
  | .b => { p with stagedB := p.stagedB.write taken dflt }

/-- LOAD PLAN to ACTIVE: mode, extent and values, then a switch-over over the lanes named (R145). -/
def loadActive (first dflt : Byte) (es : List RawEntry) (t : State) : ReplyCode × State :=
  whileWorking t fun im =>
    if im.switchMode ≠ .direct then (.wrongMode, t)
    else if !loadAcceptable im first dflt es then (.badValue, t)
    else (.done, switchOver im (takenEntries im.laneCount first.toNat es) (dfltOfByte dflt) t)

/-- LOAD PLAN to a staged plan (R145). -/
def loadStaged (which : Staged) (first dflt : Byte) (es : List RawEntry) (t : State) : ReplyCode × State :=
  whileWorking t fun im =>
    if !loadAcceptable im first dflt es then (.badValue, t)
    else
      (.done, { t with plans := writeStaged which (takenEntries im.laneCount first.toNat es) (dfltOfByte dflt) t.plans })

/-- LOAD PLAN by its target code: 0 ACTIVE, 1 A, 2 B, any other BAD_VALUE (R145 step 1). -/
def loadPlan (target first dflt : Byte) (es : List RawEntry) (t : State) : ReplyCode × State :=
  if target = 0 then loadActive first dflt es t
  else
    match stagedOfCode target with
    | some which => loadStaged which first dflt es t
    | none => whileWorking t fun _ => (.badValue, t)

/-- LOAD_PLAN_ACTIVE (R145). -/
def execLoadPlanActive (first dflt : Byte) (es : List RawEntry) (s : State) : Result :=
  serveCode s (loadPlan 0 first dflt es)

/-- LOAD_PLAN_STAGED (R145). -/
def execLoadPlanStaged (target first dflt : Byte) (es : List RawEntry) (s : State) : Result :=
  serveCode s (loadPlan target first dflt es)

/-- SELECT STAGED handled: mode, then target (R146). -/
def selectStaged (target : Byte) (t : State) : ReplyCode × State :=
  whileWorking t fun im =>
    if im.switchMode ≠ .line then (.wrongMode, t)
    else
      match stagedOfCode target with
      | none => (.badValue, t)
      | some which => (.done, { t with plans := { t.plans with selected := which } })

/-- SELECT_STAGED (R146). -/
def execSelectStaged (target : Byte) (s : State) : Result := serveCode s (selectStaged target)

/-- SWITCH PLAN handled: mode, then target (R147). -/
def switchPlan (target : Byte) (t : State) : ReplyCode × State :=
  whileWorking t fun im =>
    if im.switchMode ≠ .request then (.wrongMode, t)
    else
      match stagedOfCode target with
      | none => (.badValue, t)
      | some which => (.done, switchFromStaged im which t)

/-- SWITCH_PLAN (R147). -/
def execSwitchPlan (target : Byte) (s : State) : Result := serveCode s (switchPlan target)

/-- The held SWITCH level after a sample (R147). -/
def setSwitch (level : Bool) (s : State) : State := { s with plans := { s.plans with switchLevel := level } }

/-- An asserted edge: the level, and in LINE mode and a working state a switch-over from the selected staged plan (R144, R147). -/
def switchAsserted (s : State) : State :=
  match s.image with
  | none => setSwitch true s
  | some im =>
    if s.control.station.working = true ∧ im.switchMode = .line then
      switchFromStaged im s.plans.selected (setSwitch true s)
    else setSwitch true s

/-- SWITCH_EDGE (R147). -/
def execSwitchEdge (s : State) : Result := event s (!s.control.held && !s.plans.switchLevel) switchAsserted

/-- SWITCH_NEGATED (R147). -/
def execSwitchNegated (s : State) : Result := event s (!s.control.held && s.plans.switchLevel) (setSwitch false)

/-- BLOCK LANE and UNBLOCK LANE handled (R152). -/
def setBlock (blocked : Bool) (lane : Nat) (t : State) : ReplyCode × State :=
  whileWorking t fun im =>
    if im.laneCount ≤ lane then (.badValue, t)
    else
      (.done, releaseHeld { t with plans := t.plans.setLane lane { t.plans.lane lane with blocked := blocked } })

/-- BLOCK_LANE (R152). -/
def execBlockLane (lane : Byte) (s : State) : Result := serveCode s (setBlock true lane.toNat)

/-- UNBLOCK_LANE (R152). -/
def execUnblockLane (lane : Byte) (s : State) : Result := serveCode s (setBlock false lane.toNat)

/-- The records of a lane whose height is above the lane's clearance low (R4). -/
def conflictCount (im : Image) (records : List UnitRecord) (lane : Nat) : Nat :=
  ((onLane records lane).filter fun r => (im.lane lane).low < r.unit.height).length

/-- The CLEARANCE CONFLICT reports of a lowered panel, lane by lane (R4). -/
def postConflicts (im : Image) : List Nat → State → State
  | [], s => s
  | lane :: rest, s =>
    postConflicts im rest
      (if (im.lane lane).low < (im.lane lane).high ∧ 0 < conflictCount im s.units.records lane then
        post (.clearanceConflict lane (conflictCount im s.units.records lane)) s
      else s)

/-- A change of PANEL (R4): the new state, the conflicts of a lowered panel, held entries released. -/
def panelChanged (lowered : Bool) (s : State) : State :=
  let t := { s with units := { s.units with lowered := lowered } }
  releaseHeld (match lowered, s.image with
    | true, some im => postConflicts im (List.range im.laneCount) t
    | _, _ => t)

/-- PANEL_CHANGE (R3, R4). -/
def execPanelChange (lowered : Bool) (s : State) : Result :=
  event s (!s.control.held && lowered != s.units.lowered) (panelChanged lowered)

end Sys2Proof.Machine
end

