-- ==== Sys2Proof/Machine/Startup.lean ====
section
/-! DEFINITION. The meanings of reset, start-up and restoring (chapter 10): RESET, LEAVE_RESET, RDY_FIRST_TICK, LOAD_TRY_FAILED,
LOAD_RETRY, IMAGE_LOAD_END, LISTEN_EXPIRY, BEGIN_RESTORE, RESTORE_UNIT, END_RESTORE, RESTART. -/

namespace Sys2Proof.Machine

/-- RESET (R172). -/
def execReset (s : State) : Result := .next (resetAll s)

/-- LEAVE_RESET (R172). -/
def execLeaveReset (panel switch : Bool) (s : State) : Result := event s s.control.held (leave panel switch)

/-- RDY_FIRST_TICK (R157, R172): the first tick of the time base since reset was left. -/
def execRdyFirstTick (s : State) : Result :=
  event s (!s.control.held && !s.control.ticked) fun s =>
    { s with control := { s.control with ticked := true }, port := { s.port with rdy := true } }

/-- A try failed for want of an acknowledge (R173): the count rises; the fourth failure is FAULTED with NO_IMAGE. -/
def tryFailed (lost : Unacknowledged) (s : State) : State :=
  let t := { s with
    control := { s.control with
      tries := s.control.tries + 1
      loader := .waiting 0
      link := freeLink ++ tryCut lost } }
  if t.control.tries < Config.maxTries then t else enterFaulted .noImage t

/-- LOAD_TRY_FAILED (R173). -/
def execLoadTryFailed (lost : Unacknowledged) (s : State) : Result := event s s.loadTrying (tryFailed lost)

/-- Whether the loader has waited its 20 ms between two tries (R173). -/
def retryDue (s : State) : Bool := !s.control.held && s.control.station == .loading && s.control.loader.waitedOut

/-- LOAD_RETRY (R173): the wait is over; the loader frees the link and makes the next try. -/
def execLoadRetry (s : State) : Result := event s (retryDue s) beginTry

/-- The end of an image read (R173, R174): the header is judged first, and a header that fails ends the read there; the whole image
is judged next. -/
def loadEnd (image : List Byte) (s : State) : State :=
  let header := bytesRead s.fresh image Config.headerLength
  let whole := bytesRead s.fresh image Config.imageLength
  let read := fun count => { s with
    fresh := s.fresh + 1
    control := { s.control with link := s.control.link ++ takeBytes count } }
  match headerFault header with
  | some code => enterFaulted code (read Config.headerLength)
  | none =>
    match bodyFault whole with
    | some code => enterFaulted code (read Config.imageLength)
    | none => enterListening (imageSettings whole) (read Config.imageLength)

/-- IMAGE_LOAD_END (R174, R175). -/
def execImageLoadEnd (image : List Byte) (s : State) : Result := event s s.loadTrying (loadEnd image)

/-- LISTEN_EXPIRY (R177): the listen timer has reached the listen interval. -/
def execListenExpiry (s : State) : Result :=
  match s.image with
  | none => .next s
  | some im => event s (s.control.station == .listening && reachedLimit im.listenInterval s.control.listen) listenOver

/-- BEGIN RESTORE handled (R177). -/
def beginRestore (t : State) : ReplyCode × State :=
  match t.control.station with
  | .loading | .faulted => (.unavailable, t)
  | .listening => (.done, { t with control := { t.control with restoreMark := true } })
  | .restoring | .joined | .quiet => (.wrongState, t)

/-- BEGIN_RESTORE (R177). -/
def execBeginRestore (s : State) : Result := serveCode s beginRestore

/-- Whether a record or an intake entry holds a tag (R22, R25, R178). -/
def tagHeld (s : State) (tag : Tag) : Bool := (s.units.find tag).isSome || s.intake.any fun e => e.tag == tag

/-- The record a RESTORE UNIT inserts (R15). -/
def restoredRecord (im : Image) (lane offset : Nat) (unit : UnitId) : UnitRecord :=
  ⟨unit, lane, offset, contributions im lane offset unit, .parked⟩

/-- RESTORE UNIT in RESTORING: the checks of R178 in order, then the insertion. -/
def restoreChecked (im : Image) (lane offset : Nat) (u : RawUnit) (t : State) : ReplyCode × State :=
  let unit := u.clamped
  if tagHeld t u.tag then (.duplicateTag, t)
  else if !u.acceptable im.laneCount then (.badValue, t)
  else if im.laneCount ≤ lane then (.badValue, t)
  else if offset < occupied im.gap t.units.records lane then (.badValue, t)
  else if (im.lane lane).len < offset + unit.length then (.badValue, t)
  else if !orderAllows (im.lane lane).order (newestOn t.units.records lane) unit.port then (.badValue, t)
  else if Config.laneCap ≤ (onLane t.units.records lane).length ∨ t.units.freePool = 0 then (.full, t)
  else (.done, settle (insertRecord im (restoredRecord im lane offset unit) t))

/-- RESTORE UNIT handled (R178). -/
def restoreUnit (lane offset : Nat) (u : RawUnit) (t : State) : ReplyCode × State :=
  match t.control.station, t.image with
  | .restoring, some im => restoreChecked im lane offset u t
  | .loading, _ | .faulted, _ | .restoring, none => (.unavailable, t)
  | .listening, _ | .joined, _ | .quiet, _ => (.wrongState, t)

/-- RESTORE_UNIT (R178). -/
def execRestoreUnit (lane : Byte) (offset : BitVec 16) (u : RawUnit) (s : State) : Result :=
  serveCode s (restoreUnit lane.toNat offset.toNat u)

/-- END RESTORE handled (R179). -/
def endRestore (t : State) : ReplyCode × State :=
  match t.control.station with
  | .loading | .faulted => (.unavailable, t)
  | .restoring => (.done, enterJoined t)
  | .listening | .joined | .quiet => (.wrongState, t)

/-- END_RESTORE (R179). -/
def execEndRestore (s : State) : Result := serveCode s endRestore

/-- RESTART (R172): received like any other request; the reset discards the port's state before a reply is made up, and the part
leaves reset at once. -/
def execRestart (panel switch : Bool) (s : State) : Result :=
  event s (receives s) fun s => leave panel switch (resetAll s)

end Sys2Proof.Machine
end

