-- ==== Sys2Proof/Machine/Submissions.lean ====
section
/-! DEFINITION. The meanings of the intake queue's and the evaluator's commands (chapters 2 and 3): SUBMIT_ARRIVAL,
SUBMIT_DEPARTURE, WITHDRAW, EVALUATE_ARRIVAL, EVALUATE_DEPARTURE, WAIT_LIMIT_EXPIRY. -/

namespace Sys2Proof.Machine

/-- A new entry at the back of the queue: WAITING, its wait timer from 0, its mark clear (R25, R26). -/
def joinQueue (ask : Ask) (t : State) : State := { t with intake := t.intake ++ [⟨ask, .waiting, 0, false⟩] }

/-- SUBMIT ARRIVAL handled: state, room, record values, then the tag (R23 to R25). -/
def submitArrival (u : RawUnit) (t : State) : ReplyCode × State :=
  match t.image with
  | none => (.unavailable, t)
  | some im =>
    if !t.control.station.working then (.unavailable, t)
    else if Config.intakeCap ≤ t.intake.length then (.full, t)
    else if !u.acceptable im.laneCount then (.badRecord, t)
    else if tagHeld t u.tag then (.duplicateTag, t)
    else (.taken, joinQueue (.arrival u.clamped) t)

/-- SUBMIT_ARRIVAL (R23). -/
def execSubmitArrival (u : RawUnit) (s : State) : Result := serveCode s (submitArrival u)

/-- SUBMIT DEPARTURE handled: state, tag, record state, duplicates, room (R26). -/
def submitDeparture (tag : Tag) (t : State) : ReplyCode × State :=
  if !t.control.station.working then (.unavailable, t)
  else
    match t.units.find tag with
    | none => (.unknownTag, t)
    | some r =>
      if r.state ≠ .parked then (.wrongState, t)
      else if t.intake.any fun e => e.tag == tag then (.duplicateTag, t)
      else if Config.intakeCap ≤ t.intake.length then (.full, t)
      else (.taken, joinQueue (.departure tag) t)

/-- SUBMIT_DEPARTURE (R26). -/
def execSubmitDeparture (tag : Tag) (s : State) : Result := serveCode s (submitDeparture tag)

/-- WITHDRAW handled (R27). -/
def withdraw (tag : Tag) (t : State) : ReplyCode × State :=
  if !t.control.station.serving then (.unavailable, t)
  else
    match t.intake.find? fun e => e.tag == tag with
    | none => (.unknownTag, t)
    | some e =>
      if e.isPlacing then (.busy, t)
      else (.done, { t with intake := t.intake.eraseP fun e => e.tag == tag })

/-- WITHDRAW (R27). -/
def execWithdraw (tag : Tag) (s : State) : Result := serveCode s (withdraw tag)

/-- The arrival the evaluator takes now: the gate open, and the oldest entry it may take an ARRIVAL (R29). -/
def arrivalDue (s : State) : Option UnitId :=
  if gateOpen s then
    match (taken s).map Entry.ask with
    | some (.arrival u) => some u
    | _ => none
  else none

/-- The record of the departure the evaluator takes now: the gate open, the oldest entry it may take a DEPARTURE, and its record
PARKED, as D1 has it (R29, R61). -/
def departureDue (s : State) : Option UnitRecord :=
  if gateOpen s then
    match (taken s).map Entry.ask with
    | some (.departure tag) => (s.units.find tag).filter fun r => r.state == .parked
    | _ => none
  else none

/-- EVALUATE_ARRIVAL (R39). -/
def execEvaluateArrival (s : State) : Result :=
  match s.image, arrivalDue s with
  | some im, some u => .next (applyArrival im u s)
  | _, _ => .next s

/-- EVALUATE_DEPARTURE (R61). -/
def execEvaluateDeparture (s : State) : Result :=
  match s.image, departureDue s with
  | some im, some r => .next (applyDeparture im r s)
  | _, _ => .next s

/-- Whether an entry is the one whose wait limit runs out: its tag, its mark still clear, its timer at the limit (R34). -/
def Entry.runsOut (im : Image) (tag : Tag) (e : Entry) : Bool := e.tag == tag && e.waitedOut im

/-- The wait limit of an entry runs out (R34): a WAITING or HELD entry is refused while fewer than 28 reports are held; else the
mark is set. The timer stands at the limit. -/
def waitOver (im : Image) (tag : Tag) (e : Entry) (s : State) : State :=
  if !e.isPlacing && s.reports.length < Config.decisionBelow then
    post (.refused tag .waitLimit) { s with intake := s.intake.eraseP (Entry.runsOut im tag) }
  else
    { s with
      intake := updateFirst (Entry.runsOut im tag) (fun e => { e with timer := im.waitMs, expired := true }) s.intake }

/-- WAIT_LIMIT_EXPIRY (R34). -/
def execWaitLimitExpiry (tag : Tag) (s : State) : Result :=
  match s.image with
  | none => .next s
  | some im =>
    match s.intake.find? (Entry.runsOut im tag) with
    | none => .next s
    | some e => .next (waitOver im tag e s)

end Sys2Proof.Machine
end

