-- ==== Sys2Proof/Machine/Replies.lean ====
section
/-! DEFINITION. The bodies of the read replies (R161 to R167, section 11.3). Each reply is the reply code and its body. -/

namespace Sys2Proof.Machine

/-- DONE followed by a body. -/
def doneWith (body : List Byte) : List Byte := ReplyCode.done.byte :: body

/-- The reply to a read request by station state: UNAVAILABLE while LOADING, else as its rule gives (R160). -/
def readReply (s : State) (reply : List Byte) : List Byte :=
  if s.control.station = .loading then [ReplyCode.unavailable.byte] else reply

/-- The bitmap of a set of station numbers: bit n stands for station n. Section 11.3 names the bitmap of the stray set without its
bits; the model reads it as the manual reads the image's expected set (DESIGN CHOICE, log entry 22). -/
def stationBits (ns : List StationNo) : Byte := ns.foldl (fun acc n => acc ||| BitVec.twoPow 8 n.val) 0

/-- READ STATUS, 45 bytes (R161). In FAULTED every item but the state, the fault and ALARM is 0. -/
def statusBody (s : State) : List Byte :=
  let c := s.control
  let head := [numByte c.station.code, numByte ((c.fault.map FaultCode.code).getD 0),
    numByte ((c.fault.map FaultCode.sectionCode).getD 0)]
  if c.station = .faulted then head ++ List.replicate 39 0 ++ [flagByte (alarm s), 0, 0]
  else
    head ++
    [flagByte c.restoreMark, numByte ((s.image.map fun im => im.stationNo.val).getD 0), numByte s.laneCount,
      flagByte s.units.lowered, flagByte s.plans.switchLevel] ++
    sumsBytes s.units.sums ++ beBytes 4 (recordMass s.units.records) ++ beBytes 2 s.units.freePool ++
    [numByte s.intake.length, flagByte (gateOpen s), numByte s.intents.open_.length,
      flagByte s.intents.hasUnannounced, numByte s.intents.counter.val, flagByte s.view.limitExcess,
      numByte s.bus.queue.length, numByte ((s.bus.queue.head?.map Notice.code).getD 0), numByte s.bus.attempts,
      s.bus.counter, stationBits s.peers.stray, numByte s.reports.length, flagByte (alarm s), flagByte (attn s),
      s.plans.generation]

/-- Lower bound, upper bound and expected value of one quantity, 6 bytes signed each. -/
def quantityBytes (lo hi expected : Int) : List Byte := beInt 6 lo ++ beInt 6 hi ++ beInt 6 expected

/-- READ SHIP VIEW, 142 bytes (R162); without an image every value is 0 and the mode is none (R85). -/
def shipViewBody (s : State) : List Byte :=
  match s.image with
  | none => List.replicate 141 0 ++ [0xFF]
  | some im =>
    let lo := viewLow s im none Quad.zero
    let hi := viewHigh s im none Quad.zero
    let ex := expectedView s im Quad.zero
    quantityBytes lo.m hi.m ex.m ++ quantityBytes lo.t hi.t ex.t ++ quantityBytes lo.l hi.l ex.l ++
      quantityBytes lo.v hi.v ex.v ++ beInt 4 im.mMax ++ beInt 4 im.tMax ++ beInt 4 im.vMax ++
      beInt 6 s.view.wMin ++ beInt 6 s.view.wMax ++ (excessNow s im).toList.flatMap (beInt 6) ++
      [flagByte s.view.limitExcess] ++ beInt 2 (listFigure s im) ++ beInt 2 (trimFigure s im) ++
      beInt 2 (massFigure s im) ++ beInt 2 (verticalFigure s im) ++ [numByte im.subst.code]

/-- One record's part of READ LANE, 17 bytes (R163). -/
def laneRecordBytes (index : Nat) (r : UnitRecord) : List Byte :=
  numByte index :: beBytes 4 r.unit.tag.toNat ++
    [numByte r.unit.kind.code, numByte r.unit.length, numByte r.unit.width, numByte r.unit.height] ++
    beBytes 2 r.unit.mass ++ [numByte r.unit.port, numByte r.unit.group, flagByte r.unit.power] ++
    beBytes 2 r.offset ++ [numByte r.state.code]

/-- READ LANE (R163): the lane's part, and up to 8 records from the first index on. -/
def laneBody (s : State) (im : Image) (lane first : Nat) : List Byte :=
  let d := im.lane lane
  let rs := onLane s.units.records lane
  [numByte lane, numByte d.order.code] ++ beBytes 2 d.len ++ [numByte (s.units.clearance d)] ++
    beBytes 2 (occupied im.gap s.units.records lane) ++ beInt 2 (freeLength im s.units.records lane) ++
    [numByte rs.length, ((exitIndex im s.units.records lane).map numByte).getD 0xFF] ++
    (((rs.drop first).take 8).zipIdx first).flatMap fun x => laneRecordBytes x.2 x.1

/-- READ LANE's reply (R163). -/
def laneReply (s : State) (lane first : Nat) : List Byte :=
  match s.image with
  | none => [ReplyCode.badValue.byte]
  | some im => if lane < im.laneCount then doneWith (laneBody s im lane first) else [ReplyCode.badValue.byte]

/-- The 16 bytes of a unit record as held; 0xFF for an absent preferred lane (section 11.3). -/
def unitBytes (u : UnitId) : List Byte :=
  beBytes 4 u.tag.toNat ++ [numByte u.kind.code, numByte u.length, numByte u.width, numByte u.height] ++
    beBytes 2 u.mass ++ [numByte u.axle, numByte u.port, numByte u.group, flagByte u.power, flagByte u.unverified,
      (u.preferred.map numByte).getD 0xFF]

/-- The time left before an intent's lifetime runs out, in ms (R164). -/
def lifetimeLeft (im : Image) : IntentState → Nat
  | .unannounced => im.lifetime * 1000
  | .announced ms => im.lifetime * 1000 - ms
  | .overdue => 0

/-- The intent's part of READ UNIT, 7 bytes; zeros where there is none (R164). -/
def intentBytes (im : Image) : Option Intent → List Byte
  | none => List.replicate 7 0
  | some it => [1, idDirByte it.id it.dir, numByte it.state.code] ++ beBytes 4 (lifetimeLeft im it.state)

/-- READ UNIT, 41 bytes (R164); a PARKED record carries no intent. -/
def unitBody (s : State) (im : Image) (r : UnitRecord) : List Byte :=
  unitBytes r.unit ++ [numByte r.lane] ++ beBytes 2 r.offset ++ [numByte r.state.code] ++ beInt 2 r.contrib.m ++
    beInt 4 r.contrib.t ++ beInt 4 r.contrib.l ++ beInt 4 r.contrib.v ++
    intentBytes im (if r.state = .parked then none else s.intents.ofTag r.unit.tag)

/-- READ UNIT's reply (R164). -/
def unitReply (s : State) (tag : Tag) : List Byte :=
  match s.image, s.units.find tag with
  | some im, some r => doneWith (unitBody s im r)
  | _, _ => [ReplyCode.unknownTag.byte]

/-- The time left on a silence timer, 0xFFFFFFFF when it stands stopped (R165, section 11.3). -/
def silenceBytes (limit : Nat) : Silence → List Byte
  | .stopped => List.replicate 4 0xFF
  | .running ms => beBytes 4 (limit - ms)
  | .atLimit => beBytes 4 0

/-- A peer record's part of READ PEER (R165). -/
def peerBytes (im : Image) (p : Peer) : List Byte :=
  numByte p.lock.code :: (p.lastSeq.map fun q => [0, q]).getD [0xFF, 0xFF] ++ sumsBytes p.sums ++ beBytes 2 p.parked ++
    [numByte p.recorded.length] ++ p.recorded.flatMap entryBytes ++ silenceBytes im.silenceLimit p.silence

/-- READ PEER's body for a station number (R165): number, relation, and the record of an expected peer. -/
def peerBody (s : State) (n : StationNo) : List Byte :=
  match s.image with
  | none => [numByte n.val, 4]
  | some im =>
    if n = im.stationNo then [numByte n.val, 0]
    else
      match s.peers.peers.find? fun p => p.number == n with
      | some p => [numByte n.val, 1] ++ peerBytes im p
      | none => if s.peers.stray.contains n then [numByte n.val, 2] else [numByte n.val, 3]

/-- READ PEER's reply (R165). -/
def peerReply (s : State) (number : Byte) : List Byte :=
  if h : number.toNat < 8 then doneWith (peerBody s ⟨number.toNat, h⟩) else [ReplyCode.badValue.byte]

/-- Kind code of an entry: 0 ARRIVAL, 1 DEPARTURE. -/
def Ask.code : Ask → Nat
  | .arrival _ | .placedArrival _ => 0
  | .departure _ => 1

/-- State code, hold reason and intent id of an entry (section 11.3). -/
def EntryState.bytes : EntryState → List Byte
  | .waiting => [0, 0, 0xFF]
  | .held reason => [1, numByte reason.code, 0xFF]
  | .placing id => [2, 0, numByte id.val]

/-- One entry of READ INTAKE, 13 bytes (R166); the time left is 0 once the limit has expired. -/
def intakeEntryBytes (waitMs : Nat) (e : Entry) : List Byte :=
  numByte e.ask.code :: beBytes 4 e.tag.toNat ++ e.state.bytes ++
    beBytes 4 (if e.expired then 0 else waitMs - e.timer) ++ [flagByte e.expired]

/-- READ INTAKE (R166). -/
def intakeBody (s : State) : List Byte :=
  numByte s.intake.length :: s.intake.flatMap (intakeEntryBytes ((s.image.map Image.waitMs).getD 0))

/-- The plan a READ PLAN code names: 0 ACTIVE, 1 A, 2 B (section 11.2). -/
def PlanStore.planOfCode (p : PlanStore) (code : Byte) : Option Plan :=
  if code = 0 then some p.active else if code = 1 then some p.stagedA else if code = 2 then some p.stagedB else none

/-- A lane's pending entry, 3 bytes with the first 0xFF when absent; the manual does not state the other two bytes of an absent
entry, which are free values (log entry 17). -/
def pendingBytes (draw lane : Nat) : Option PlanEntry → List Byte
  | none => [0xFF, Config.freeByte draw (2 * lane), Config.freeByte draw (2 * lane + 1)]
  | some e => e.bytes

/-- One lane's part of READ PLAN (R167). -/
def planLaneBytes (draw : Nat) (p : PlanStore) (plan : Plan) (isActive : Bool) (lane : Nat) : List Byte :=
  (plan.entry lane).bytes ++
    if isActive then
      pendingBytes draw lane (p.lane lane).pending ++ [flagByte (p.lane lane).blocked, flagByte (p.lane lane).reported]
    else []

/-- READ PLAN's body (R167). -/
def planBody (draw : Nat) (im : Image) (p : PlanStore) (plan : Plan) (isActive : Bool) (first : Nat) : List Byte :=
  [numByte im.switchMode.code, p.generation, numByte p.selected.code, numByte plan.dflt] ++
    ((List.range im.laneCount).drop first).flatMap (planLaneBytes draw p plan isActive)

/-- READ PLAN's reply (R167). -/
def planReply (s : State) (code first : Byte) : List Byte :=
  match s.plans.planOfCode code, s.image with
  | some plan, some im =>
    if first.toNat < im.laneCount then doneWith (planBody s.fresh im s.plans plan (code == 0) first.toNat)
    else [ReplyCode.badValue.byte]
  | _, _ => [ReplyCode.badValue.byte]

end Sys2Proof.Machine
end

