-- ==== Sys2Proof/Machine/Terminal.lean ====
section
/-! DEFINITION. The meanings of the terminal port's own commands and of the read requests (chapter 9): SELECTION_BEGIN,
NOT_READY_SELECTION, NULL, BAD_REQUEST, READ_STATUS, READ_SHIP_VIEW, READ_LANE, READ_UNIT, READ_PEER, READ_INTAKE, READ_PLAN,
READ_REPORT. -/

namespace Sys2Proof.Machine

/-- SELECTION_BEGIN (R157): the select line asserted while RDY is high. -/
def execSelectionBegin (s : State) : Result :=
  event s (!s.control.held && s.port.rdy) fun s => { s with port := s.port.begin }

/-- NOT_READY_SELECTION (R157): a selection begun while RDY is low shifts out the marker; no request is received and nothing else
changes. -/
def execNotReadySelection (s : State) : Result :=
  event s (!s.control.held && !s.port.rdy) fun s => { s with port := { s.port with dataOut := .marker } }

/-- The byte that the port shifts out at a place of the selection begun last: the reply and then filler, or the marker (R156,
R157, section 11.2); none where the data-out line is released. -/
def shiftedOut (p : Port) (place : Nat) : Option Byte :=
  match p.dataOut with
  | .released => none
  | .reply bytes => some (bytes.getD place Config.filler)
  | .marker => some Config.notReadyMarker

/-- The bit that the port shifts out at a place of the selection begun last: bytes most significant bit first (R156). -/
def shiftedOutBit (p : Port) (bit : Nat) : Option Bool := (shiftedOut p (bit / 8)).map fun b => b.getLsbD (7 - bit % 8)

/-- The bytes of the bits taken in during a selection, most significant bit first; a last byte left incomplete is ignored (R156). -/
def takenIn : List Bool → List Byte
  | b7 :: b6 :: b5 :: b4 :: b3 :: b2 :: b1 :: b0 :: rest =>
    BitVec.ofNat 8 ([b7, b6, b5, b4, b3, b2, b1, b0].foldl (fun acc bit => 2 * acc + bit.toNat) 0) :: takenIn rest
  | _ => []

/-- NULL (R159): an exact copy of the reply that was pending, or DONE where none was. -/
def execNull (s : State) : Result := serve s fun t => (t.port.pendingReply.getD [ReplyCode.done.byte], t)

/-- BAD_REQUEST (R158): bytes that are not well framed are refused and reach no other block. -/
def execBadRequest (bytes : List Byte) (s : State) : Result :=
  if wellFramed bytes then .next s else serveCode s fun t => (.badRequest, t)

/-- READ_STATUS (R161). -/
def execReadStatus (s : State) : Result := serve s fun t => (readReply t (doneWith (statusBody t)), t)

/-- READ_SHIP_VIEW (R162). -/
def execReadShipView (s : State) : Result := serve s fun t => (readReply t (doneWith (shipViewBody t)), t)

/-- READ_LANE (R163). -/
def execReadLane (lane first : Byte) (s : State) : Result :=
  serve s fun t => (readReply t (laneReply t lane.toNat first.toNat), t)

/-- READ_UNIT (R164). -/
def execReadUnit (tag : Tag) (s : State) : Result := serve s fun t => (readReply t (unitReply t tag), t)

/-- READ_PEER (R165). -/
def execReadPeer (number : Byte) (s : State) : Result := serve s fun t => (readReply t (peerReply t number), t)

/-- READ_INTAKE (R166). -/
def execReadIntake (s : State) : Result := serve s fun t => (readReply t (doneWith (intakeBody t)), t)

/-- READ_PLAN (R167); the reply takes one draw of free values for the bytes the manual does not state. -/
def execReadPlan (plan first : Byte) (s : State) : Result :=
  serve s fun t => (readReply t (planReply t plan first), { t with fresh := t.fresh + 1 })

/-- READ REPORT handled (R169): the oldest report removed and returned, and a marked entry refused where there is room (R35). -/
def readReport (t : State) : List Byte × State :=
  match t.control.station, t.reports with
  | .loading, _ => ([ReplyCode.unavailable.byte], t)
  | _, [] => ([ReplyCode.empty.byte], t)
  | _, r :: rest => (doneWith r.bytes, refuseMarked { t with reports := rest })

/-- READ_REPORT (R169). -/
def execReadReport (s : State) : Result := serve s readReport

end Sys2Proof.Machine
end

