-- ==== Sys2Proof/Machine/Dispatch.lean ====
section
/-! DEFINITION. The dispatch: one arm per command, one meaning per arm. A meaning changes everything but the queue of waiting
commands. -/

namespace Sys2Proof.Machine

def exec (i : Instr) (s : State) : Host.Outcome State Fault Refusal :=
  match i with
  | .reset => Sys2Proof.Machine.execReset s
  | .leaveReset panel switch => Sys2Proof.Machine.execLeaveReset panel switch s
  | .rdyFirstTick => Sys2Proof.Machine.execRdyFirstTick s
  | .loadTryFailed lost => Sys2Proof.Machine.execLoadTryFailed lost s
  | .loadRetry => Sys2Proof.Machine.execLoadRetry s
  | .imageLoadEnd image => Sys2Proof.Machine.execImageLoadEnd image s
  | .listenExpiry => Sys2Proof.Machine.execListenExpiry s
  | .null => Sys2Proof.Machine.execNull s
  | .badRequest bytes => Sys2Proof.Machine.execBadRequest bytes s
  | .notReadySelection => Sys2Proof.Machine.execNotReadySelection s
  | .readStatus => Sys2Proof.Machine.execReadStatus s
  | .readShipView => Sys2Proof.Machine.execReadShipView s
  | .readLane lane first => Sys2Proof.Machine.execReadLane lane first s
  | .readUnit tag => Sys2Proof.Machine.execReadUnit tag s
  | .readPeer number => Sys2Proof.Machine.execReadPeer number s
  | .readIntake => Sys2Proof.Machine.execReadIntake s
  | .readPlan plan first => Sys2Proof.Machine.execReadPlan plan first s
  | .readReport => Sys2Proof.Machine.execReadReport s
  | .submitArrival unit => Sys2Proof.Machine.execSubmitArrival unit s
  | .submitDeparture tag => Sys2Proof.Machine.execSubmitDeparture tag s
  | .withdraw tag => Sys2Proof.Machine.execWithdraw tag s
  | .reportParked tag => Sys2Proof.Machine.execReportParked tag s
  | .reportAbandoned tag => Sys2Proof.Machine.execReportAbandoned tag s
  | .reportDeparted tag => Sys2Proof.Machine.execReportDeparted tag s
  | .forcedDeparture tag => Sys2Proof.Machine.execForcedDeparture tag s
  | .reportStayed tag => Sys2Proof.Machine.execReportStayed tag s
  | .setTrimWindow minimum maximum => Sys2Proof.Machine.execSetTrimWindow minimum maximum s
  | .loadPlanActive first dflt entries => Sys2Proof.Machine.execLoadPlanActive first dflt entries s
  | .loadPlanStaged target first dflt entries => Sys2Proof.Machine.execLoadPlanStaged target first dflt entries s
  | .selectStaged target => Sys2Proof.Machine.execSelectStaged target s
  | .switchPlan target => Sys2Proof.Machine.execSwitchPlan target s
  | .switchEdge => Sys2Proof.Machine.execSwitchEdge s
  | .blockLane lane => Sys2Proof.Machine.execBlockLane lane s
  | .unblockLane lane => Sys2Proof.Machine.execUnblockLane lane s
  | .beginRestore => Sys2Proof.Machine.execBeginRestore s
  | .restoreUnit lane offset unit => Sys2Proof.Machine.execRestoreUnit lane offset unit s
  | .endRestore => Sys2Proof.Machine.execEndRestore s
  | .restart panel switch => Sys2Proof.Machine.execRestart panel switch s
  | .panelChange lowered => Sys2Proof.Machine.execPanelChange lowered s
  | .evaluateArrival => Sys2Proof.Machine.execEvaluateArrival s
  | .evaluateDeparture => Sys2Proof.Machine.execEvaluateDeparture s
  | .waitLimitExpiry tag => Sys2Proof.Machine.execWaitLimitExpiry tag s
  | .lifetimeExpiry id => Sys2Proof.Machine.execLifetimeExpiry id s
  | .heartbeatExpiry => Sys2Proof.Machine.execHeartbeatExpiry s
  | .silenceExpiry station => Sys2Proof.Machine.execSilenceExpiry station s
  | .attemptStart idleBits => Sys2Proof.Machine.execAttemptStart idleBits s
  | .collision => Sys2Proof.Machine.execCollision s
  | .attemptComplete => Sys2Proof.Machine.execAttemptComplete s
  | .invalidFrame bytes => Sys2Proof.Machine.execInvalidFrame bytes s
  | .receiveSummary head sums parked entries => Sys2Proof.Machine.execReceiveSummary head sums parked entries s
  | .receiveIntent head entry => Sys2Proof.Machine.execReceiveIntent head entry s
  | .receiveSettle head id sums => Sys2Proof.Machine.execReceiveSettle head id sums s
  | .receiveRetract head id => Sys2Proof.Machine.execReceiveRetract head id s
  | .switchNegated => Sys2Proof.Machine.execSwitchNegated s
  | .selectionBegin => Sys2Proof.Machine.execSelectionBegin s
  | .lineIdle => Sys2Proof.Machine.execLineIdle s

end Sys2Proof.Machine
end

