-- ==== Sys2Proof/Machine/Time.lean ====
section
/-! DEFINITION. What the part does on its own while no command waits (DESIGN CHOICE, log entry 7): the evaluation that is due, and otherwise one
tick of the 1 ms time base, with the expiries that have come due put into the queue. -/

namespace Sys2Proof.Machine

/-- A timer one ms on, never past its limit. -/
def advance (limit ms : Nat) : Nat := min (ms + 1) limit

/-- An entry's wait timer one ms on, until its limit has expired (R34). -/
def Entry.tick (limit : Nat) (e : Entry) : Entry := if e.expired then e else { e with timer := advance limit e.timer }

/-- An ANNOUNCED intent's lifetime timer one ms on (R94). -/
def Intent.tick (limit : Nat) (it : Intent) : Intent :=
  match it.state with
  | .announced ms => { it with state := .announced (advance limit ms) }
  | .unannounced | .overdue => it

/-- A peer's silence timer one ms on, where it runs (R132). -/
def Peer.tick (limit : Nat) (p : Peer) : Peer :=
  match p.silence with
  | .running ms => { p with silence := .running (advance limit ms) }
  | .stopped | .atLimit => p

/-- The loader's wait between tries one ms on (R173). -/
def Loader.tick : Loader → Loader
  | .waiting ms => .waiting (advance Config.retryWait ms)
  | .off => .off
  | .trying => .trying

/-- Every timer of a station with an image one ms on (R34, R94, R119, R132, R177). -/
def tickBlocks (im : Image) (s : State) : State :=
  { s with
    control := { s.control with listen := s.control.listen.map (advance im.listenInterval) }
    intake := s.intake.map (Entry.tick im.waitMs)
    intents := { s.intents with open_ := s.intents.open_.map (Intent.tick im.lifetimeMs) }
    bus := { s.bus with heartbeat := s.bus.heartbeat.map (advance im.heartbeat) }
    peers := { s.peers with peers := s.peers.peers.map (Peer.tick im.silenceLimit) } }

/-- The expiries that have come due at a station with an image; the order among them is the model's (DESIGN CHOICE, log entry 7). -/
def dueBlocks (im : Image) (s : State) : List Instr :=
  (if reachedLimit im.listenInterval s.control.listen then [.listenExpiry] else []) ++
    (if reachedLimit im.heartbeat s.bus.heartbeat then [.heartbeatExpiry] else []) ++
    (s.intake.filter (Entry.waitedOut im)).map (fun e => .waitLimitExpiry e.tag) ++
    (s.intents.open_.filter (Intent.livedOut im)).map (fun it => .lifetimeExpiry it.id) ++
    (s.peers.peers.filter (Peer.silentTooLong im)).map fun p => .silenceExpiry p.number

/-- What a tick brings about whether or not there is an image: RDY at the first tick (R157), and the next try (R173). -/
def dueControl (c : Control) : List Instr :=
  (if c.ticked then [] else [.rdyFirstTick]) ++ if c.loader.waitedOut then [.loadRetry] else []

/-- One tick of the time base (R172): timers one ms on, and what comes due put into the queue. -/
def tick (s : State) : State :=
  let t := { s with control := { s.control with loader := s.control.loader.tick } }
  match s.image with
  | none => { t with pending := dueControl t.control }
  | some im => { tickBlocks im t with pending := dueControl t.control ++ dueBlocks im (tickBlocks im t) }

/-- The evaluation the evaluator makes now, as a command (R29). -/
def evaluationDue (s : State) : Option Instr :=
  if (arrivalDue s).isSome then some .evaluateArrival
  else if (departureDue s).isSome then some .evaluateDeparture
  else none

/-- What the part does on its own while no command waits; nothing while it is held in reset (R172; DESIGN CHOICE, log entry 7). -/
def idle (s : State) : State :=
  if s.control.held then s
  else
    match evaluationDue s with
    | some c => { s with pending := [c] }
    | none => tick s

end Sys2Proof.Machine
end

