-- ==== Sys2Proof/Machine/Line.lean ====
section
/-! DEFINITION. The two levels of the stowage bus and the bits of a frame on it (R106, R111): what a station drives, what the line
carries when several drive it, the comparison of an attempt, and the bytes a receiver samples. -/

namespace Sys2Proof.Machine

/-- The levels of the line: dominant carries 0, recessive carries 1 and is where the line rests (R106). -/
inductive Level where
  | dominant
  | recessive
deriving DecidableEq, Repr

/-- The level that carries a bit (R106). -/
def Level.ofBit (bit : Bool) : Level := if bit then .recessive else .dominant

/-- The bit a level carries (R106). -/
def Level.bit : Level → Bool
  | .dominant => false
  | .recessive => true

/-- The line under two drivers: dominant whenever either drives it so (R106). -/
def Level.over (a b : Level) : Level :=
  match a with
  | .dominant => .dominant
  | .recessive => b

/-- The bits of a byte, most significant first. -/
def msbFirst (b : Byte) : List Bool := (List.range 8).map fun i => b.getLsbD (7 - i)

/-- A byte on the line: a dominant start bit, its eight bits most significant first, a recessive stop bit (R106). -/
def byteLevels (b : Byte) : List Level := .dominant :: ((msbFirst b).map Level.ofBit ++ [.recessive])

/-- A frame on the line, its bytes with no space between them (R106). -/
def frameLevels (bytes : List Byte) : List Level := bytes.flatMap byteLevels

/-- The level the station drives at a bit time counted from its attempt's first start bit; outside an attempt it releases the
line (R106, R111). -/
def drives (s : State) (bitTime : Nat) : Level :=
  match s.bus.sending with
  | none => .recessive
  | some bytes => (frameLevels bytes).getD bitTime .recessive

/-- The bit times of idle line since the last dominant bit, the end of line activity (R106): what every wait counts, and what
ATTEMPT_START names. -/
def idleBitTimes (line : List Level) : Nat := (line.reverse.takeWhile fun l => l == .recessive).length

/-- The line is idle once it has been recessive for 16 bit times (R106). -/
def lineIsIdle (line : List Level) : Bool := Config.idleGap ≤ idleBitTimes line

/-- The line under two stations that begin together. -/
def together (a b : List Level) : List Level := List.zipWith Level.over a b

/-- The comparison of an attempt: the first bit sent that differs from the line, where the attempt collides; none where the attempt
completes (R111). -/
def firstDifference (sent line : List Level) : Option Nat := (List.zip sent line).findIdx? fun x => x.1 != x.2

/-- The byte of eight bits, most significant first. -/
def byteOfBits (bits : List Bool) : Byte := BitVec.ofNat 8 (bits.foldl (fun acc bit => 2 * acc + bit.toNat) 0)

/-- The bytes a receiver samples from the levels of a run, so many at most: each from a dominant start bit, with the level of its stop
bit; a bit past the levels given is recessive, as the line rests (R106, R108). -/
def sampled : Nat → List Level → List RxByte
  | 0, _ => []
  | _ + 1, [] => []
  | _ + 1, .recessive :: _ => []
  | n + 1, .dominant :: rest =>
    ⟨byteOfBits ((List.range 8).map fun i => (rest.getD i .recessive).bit), (rest.getD 8 .recessive).bit⟩ :: sampled n (rest.drop 9)

end Sys2Proof.Machine
end

