-- ==== Sys2Proof/Machine/Link.lean ====
section
/-! DEFINITION. The two lines of the configuration memory's link (R173): start and stop conditions as edges of the data line while the
clock is high, a byte as nine clock pulses, what the memory adds to the data line, and the conditions and bits read from the lines.
A data line that is `true` is released by every end, `false` is held low by one. -/

namespace Sys2Proof.Machine

/-- The two lines of the link between two changes: the clock, high where true, and the data line. -/
structure LinkMoment where
  clock : Bool
  data : Bool
deriving DecidableEq, Repr

/-- One clock pulse, the data line steady from before the clock rises until it has fallen (R173; DEDUCED, log entry 23). -/
def clockPulse (data : Bool) : List LinkMoment := [⟨false, data⟩, ⟨true, data⟩, ⟨false, data⟩]

/-- A start condition, or a repeated start where the clock stands low: the data line falls while the clock is high (R173). -/
def startCondition (clockHigh : Bool) : List LinkMoment :=
  (if clockHigh then [] else [⟨false, true⟩]) ++ [⟨true, true⟩, ⟨true, false⟩, ⟨false, false⟩]

/-- A stop condition: the data line rises while the clock is high (R173). -/
def stopCondition : List LinkMoment := [⟨false, false⟩, ⟨true, false⟩, ⟨true, true⟩]

/-- A byte in its nine clock pulses: eight data bits, most significant first, and the acknowledge bit, low where acknowledged (R173). -/
def ninePulses (b : Byte) (acknowledge : Bool) : List Bool := msbFirst b ++ [acknowledge]

/-- What the loader does to the data line at the clock pulses of an operation: it sends a byte's bits and releases the acknowledge bit,
or releases a byte's bits and acknowledges it or not (R173). -/
def LinkOp.loaderBits : LinkOp → List Bool
  | .pulses count => List.replicate count true
  | .start | .stop => []
  | .send b => ninePulses b true
  | .takeAcked count => (List.replicate count (List.replicate 8 true ++ [false])).flatten
  | .takeLast => List.replicate 9 true

/-- The data line at the clock pulses of an operation: low where the loader or the memory holds it low. A bit that the memory's list does
not reach is released by it. -/
def LinkOp.lineBits (op : LinkOp) (memory : List Bool) : List Bool :=
  op.loaderBits.mapIdx fun i bit => bit && memory.getD i true

/-- An operation on the two lines, from the clock level it finds. -/
def LinkOp.lines (clockHigh : Bool) (op : LinkOp) (memory : List Bool) : List LinkMoment :=
  match op with
  | .start => startCondition clockHigh
  | .stop => stopCondition
  | .pulses _ | .send _ | .takeAcked _ | .takeLast => (op.lineBits memory).flatMap clockPulse

/-- Whether an operation leaves the clock high: a stop condition does, after which the link rests so (DEDUCED, log entry 23). -/
def LinkOp.leavesHigh : LinkOp → Bool
  | .stop => true
  | .start | .pulses _ | .send _ | .takeAcked _ | .takeLast => false

/-- Operations on the two lines in their order, each with what the memory does to the data line at its clock pulses. -/
def linkLines : Bool → List (LinkOp × List Bool) → List LinkMoment
  | _, [] => []
  | clockHigh, (op, memory) :: rest => op.lines clockHigh memory ++ linkLines op.leavesHigh rest

/-- What the loader alone has put on the link since the present or latest try began, the memory releasing the data line. -/
def loaderLines (s : State) : List LinkMoment := linkLines true (s.control.link.map fun op => (op, []))

/-- What a memory that gives bytes does to the data line: their bits, the acknowledge bits released (R173). -/
def givenBits (bytes : List Byte) : List Bool := bytes.flatMap fun b => ninePulses b true

/-- A try's operations with what the memory does at each: it holds the acknowledge bit of every byte sent low, but for the last operation
of a try that fails, and gives the image's bytes in order where they are taken (R173). -/
def besideMemory (fails : Bool) : List Byte → List LinkOp → List (LinkOp × List Bool)
  | _, [] => []
  | image, .send b :: rest =>
    (.send b, List.replicate 8 true ++ [fails && rest.isEmpty]) :: besideMemory fails image rest
  | image, .takeAcked count :: rest =>
    (.takeAcked count, givenBits (image.take count)) :: besideMemory fails (image.drop count) rest
  | image, .takeLast :: rest => (.takeLast, givenBits (image.take 1)) :: besideMemory fails (image.drop 1) rest
  | image, .pulses count :: rest => (.pulses count, []) :: besideMemory fails image rest
  | image, .start :: rest => (.start, []) :: besideMemory fails image rest
  | image, .stop :: rest => (.stop, []) :: besideMemory fails image rest

/-- What is read from the two lines. -/
inductive LinkEvent where
  | start
  | stop
  | bit (data : Bool)
deriving DecidableEq, Repr

/-- The conditions and bits that the two lines carry: a start where the data line falls while the clock is high, a stop where it rises
then, and otherwise the data line's level at each clock pulse (R173). -/
def linkEvents : List LinkMoment → List LinkEvent
  | a :: b :: rest =>
    (if a.clock && b.clock && a.data && !b.data then [.start]
    else if a.clock && b.clock && !a.data && b.data then [.stop]
    else if !a.clock && b.clock && rest.head?.any (fun c => !c.clock) then [.bit b.data]
    else []) ++ linkEvents (b :: rest)
  | _ => []

end Sys2Proof.Machine
end

