-- ==== Sys2Proof/Machine/Selection.lean ====
section
/-! DEFINITION. The clock, data-in and data-out lines of a selection in mode 0 (R156): the clock rests low, each bit is sampled on its
rising edge, and the next bit is shifted out on its falling edge. -/

namespace Sys2Proof.Machine

/-- The two lines that the terminal drives, between two changes: the clock, high where true, and data-in. -/
structure TerminalMoment where
  clock : Bool
  dataIn : Bool
deriving DecidableEq, Repr

/-- Whether the clock rises from one moment to the next. -/
def clockRises (before after : TerminalMoment) : Bool := !before.clock && after.clock

/-- Whether the clock falls from one moment to the next. -/
def clockFalls (before after : TerminalMoment) : Bool := before.clock && !after.clock

/-- The bits that the port takes in during a selection: data-in at each rising edge of the clock (R156). -/
def sampledIn : List TerminalMoment → List Bool
  | a :: b :: rest => (if clockRises a b then [b.dataIn] else []) ++ sampledIn (b :: rest)
  | _ => []

/-- The data-out line at each moment of a selection, from a bit on: the next bit takes its place on each falling edge (R156). -/
def dataOutFrom (p : Port) : Nat → List TerminalMoment → List (Option Bool)
  | bit, a :: b :: rest => shiftedOutBit p bit :: dataOutFrom p (if clockFalls a b then bit + 1 else bit) (b :: rest)
  | bit, [_] => [shiftedOutBit p bit]
  | _, [] => []

/-- The data-out line at each moment of the selection begun last, released where it is none; the first bit stands on it from the
assertion of the select line on, before the clock first rises (R156; DEDUCED, log entry 24). -/
def dataOutLine (p : Port) (moments : List TerminalMoment) : List (Option Bool) := dataOutFrom p 0 moments

/-- The lines as the terminal drives them to clock bits in: the clock at rest, each bit on data-in before the clock rises and until it
has fallen (R156). -/
def clockedIn (bits : List Bool) : List TerminalMoment := bits.flatMap fun bit => [⟨false, bit⟩, ⟨true, bit⟩, ⟨false, bit⟩]

/-- The request that a selection's lines carry, or none where its bytes are not well framed (R156, R158). -/
def requestClockedIn (panel switch : Bool) (moments : List TerminalMoment) : Option Instr :=
  requestOfBytes panel switch (takenIn (sampledIn moments))

end Sys2Proof.Machine
end

