-- ==== Sys2Proof/Safety.lean ====
section
/-! DEFINITION. What the manual says holds of the station at every moment, and the terms in which claims speak of requests and of
the image load, as predicates and functions that claims use. -/

namespace Sys2Proof.Safety

open Sys2Proof.Machine

/-! ### Requests at the terminal port -/

/-- The port receives a request: the part is not held in reset, and a selection begun while RDY was high is in progress, or RDY is
high and the command stands for its whole selection (R157, log entry 3). -/
abbrev Received (s : State) : Prop := s.control.held = false ∧ (s.port.selection = true ∨ s.port.rdy = true)

/-- The port once a request has been answered: RDY high again, the reply pending in place of the one before; the selection shifted
out the reply that was pending when it began, or the marker where none was (R156, R157). -/
def answered (p : Port) (reply : List Byte) : Port :=
  { rdy := true
    selection := false
    dataOut :=
      if p.selection then p.dataOut
      else
        match p.pendingReply with
        | some old => .reply old
        | none => .marker
    pendingReply := some reply }

/-- The outcome of a request received in `s`: the state it leaves, with a reply code that has no body pending. -/
def reply (code : ReplyCode) (s t : State) : Result := .next (t.withPort (answered s.port [code.byte]))

/-- Whether a command is a request at the terminal port: a well-framed one (section 11.2), or one refused as malformed (R158). -/
def isRequest (c : Instr) : Bool :=
  match c with
  | .badRequest _ => true
  | _ => (requestParts c).isSome

/-- R23: the faults of a submitted unit record, for a deck of so many lanes. -/
abbrev BadRecord (laneCount : Nat) (u : RawUnit) : Prop :=
  u.tag = 0 ∨ 250 < u.length.toNat ∨ 30 < u.width.toNat ∨ 50 < u.height.toNat ∨ 600 < u.mass.toNat ∨
    200 < u.axle.toNat ∨ u.port.toNat = 0 ∨ 6 < u.port.toNat ∨ 7 < u.group.toNat ∨ 4 < u.kind.toNat ∨
    1 < u.power.toNat ∨ 1 < u.reading.toNat ∨ u.preferred.any (fun p => decide (laneCount ≤ p.toNat)) = true

/-- R22: a tag is held by a unit record or by an intake entry of either kind. -/
abbrev TagHeld (s : State) (tag : Tag) : Prop :=
  (∃ r ∈ s.units.records, r.unit.tag = tag) ∨ ∃ e ∈ s.intake, e.tag = tag

/-- A closure request's outcome: station state, tag, then the record's state and its intent (R95); `after` is the state that the
request leaves when it is taken. -/
def closureOutcome (s : State) (tag : Tag) (want : RecordState) (after : Image → UnitRecord → Intent → State) : Result :=
  match s.image with
  | none => reply .unavailable s s
  | some im =>
    if s.control.station = .loading ∨ s.control.station = .faulted then reply .unavailable s s
    else
      match s.units.find tag, s.intents.ofTag tag with
      | none, _ => reply .unknownTag s s
      | some _, none => reply .wrongState s s
      | some r, some it =>
        if r.state = want ∧ it.state ≠ .unannounced then reply .done s (after im r it) else reply .wrongState s s

/-- The outcome of a request that LISTENING, RESTORING and JOINED serve: UNAVAILABLE in LOADING, FAULTED and QUIET (R71, R144). -/
def whileServed (s : State) (served : Image → Result) : Result :=
  match s.image with
  | none => reply .unavailable s s
  | some im =>
    match s.control.station with
    | .loading => reply .unavailable s s
    | .faulted => reply .unavailable s s
    | .listening => served im
    | .restoring => served im
    | .joined => served im
    | .quiet => reply .unavailable s s

/-! ### The lane checks -/

/-- What each of the eleven lane checks asks of a candidate (R42 to R53, R65). -/
def Passes (s : State) (im : Image) (c : Candidate) : Check → Prop
  | .dimensions =>
    c.unit.width ≤ (im.lane c.lane).width ∧
      c.unit.height ≤ (if s.units.lowered then (im.lane c.lane).low else (im.lane c.lane).high)
  | .axle => c.unit.axle ≤ (im.lane c.lane).axle
  | .power => c.unit.power = true → c.offset < (im.lane c.lane).powered
  | .room =>
    c.offset + c.unit.length ≤ (im.lane c.lane).len ∧ (onLane c.others c.lane).length < 40 ∧ c.others.length < 512
  | .order =>
    ∀ r, (onLane c.others c.lane).getLast? = some r →
      match (im.lane c.lane).order with
      | .through => r.unit.port ≤ c.unit.port
      | .blind => c.unit.port ≤ r.unit.port
  | .apart =>
    ∀ r ∈ c.others, (r.lane = c.lane ∨ r.lane = c.lane + 1 ∨ r.lane + 1 = c.lane) →
      marked im.matrix c.unit.group r.unit.group = true →
      let d := im.lane c.lane
      let e := im.lane r.lane
      (im.apart : Int) ≤
        max 0 (max ((d.xStop : Int) - c.offset - c.unit.length) ((e.xStop : Int) - r.offset - r.unit.length) -
          min ((d.xStop : Int) - c.offset) ((e.xStop : Int) - r.offset))
  | .deckMass => (c.others.map fun r => r.unit.mass).sum + c.unit.mass ≤ im.dMax
  | .laneState =>
    (s.plans.active.entry c.lane).closed = false ∧ (s.plans.lane c.lane).blocked = false ∧
      (s.plans.lane c.lane).pending = none
  | .profile =>
    let p := effectiveProfile im s.plans c.lane
    p.kinds.getLsbD c.unit.kind.code = true ∧ p.groups.getLsbD c.unit.group = true ∧
      (c.unit.unverified = true → p.unverified = true)
  | .reservation => ∀ port ∈ (s.plans.active.entry c.lane).reserved, port = c.unit.port
  | .shipLimits => limitCheck s im c.skip c.contrib = true

/-! ### Received notices -/

/-- The command by which a notice with the given head and body is received. -/
def receiveCommand (head : FrameHead) : FrameBody → Instr
  | .summary sums parked entries => .receiveSummary head sums parked entries
  | .intent entry => .receiveIntent head entry
  | .settle id sums => .receiveSettle head id sums
  | .retract id => .receiveRetract head id

/-! ### The image load -/

/-- The state FAULTED with a code, after a read of so many bytes that ended in a failed check (R173, R174). -/
def faultedAfter (code : FaultCode) (count : Nat) (s : State) : State :=
  { s with
    fresh := s.fresh + 1
    control := { s.control with
      station := .faulted
      fault := some code
      loader := .off
      link := s.control.link ++ [.takeAcked (count - 1), .takeLast, .stop] } }

/-- The state LISTENING with the settings of an image that passed every check, before the limit-excess state is settled for the
first time (R175, R140, R155, R85). -/
def listeningWith (im : Image) (s : State) : State :=
  { s with
    fresh := s.fresh + 1
    control := { s.control with
      station := .listening
      restoreMark := false
      listen := some 0
      loader := .off
      link := s.control.link ++ [.takeAcked 829, .takeLast, .stop] }
    image := some im
    view := { s.view with wMin := im.wMin, wMax := im.wMax }
    peers :=
      { peers := im.expectedPeers.map fun n => ⟨n, .unheard, none, ⟨0, 0, 0, 0⟩, 0, [], .stopped⟩
        stray := [] }
    plans := { s.plans with
      active := im.plan
      stagedA := im.plan
      stagedB := im.plan
      lanes := (List.range im.laneCount).map fun lane =>
        ⟨none, false,
          (im.lane lane).len <
            (im.profiles.getD ((im.plan.entry lane).profile.getD im.plan.dflt) Profile.none).threshold⟩ } }

/-! ### What holds at every moment -/

/-- R88, R93, R168: at most 4 open intents, at most one UNANNOUNCED, and reports within the bounds of R168: 29 at most, and 28 at
most while an intent still waits to be announced. -/
def Bounded (s : State) : Prop :=
  s.intents.open_.length ≤ Config.intentCap ∧
  (s.intents.open_.filter fun it => it.state == .unannounced).length ≤ 1 ∧
  s.reports.length ≤ 29 ∧
  (s.intents.hasUnannounced = true → s.reports.length ≤ 28)

/-- The sum of the contributions of the records that count (R17). -/
def countedSum (records : List UnitRecord) : Quad := Quad.sum ((records.filter UnitRecord.counts).map UnitRecord.contrib)

/-- The tag of an arrival that holds its unit record: WAITING or HELD (R22). -/
def arrivalTag (e : Entry) : Option Tag :=
  match e.ask with
  | .arrival u => some u.tag
  | .placedArrival _ | .departure _ => none

/-- R22: no tag is held twice among the unit records and the arrivals that hold one. -/
def TagsDistinct (s : State) : Prop :=
  (s.units.records.map (fun r => r.unit.tag) ++ s.intake.filterMap arrivalTag).Nodup

/-- R17 with R22: the deck sums are the exact sums over the PARKED and LEAVING records, and no tag is held twice. -/
def DeckSumsAgree (s : State) : Prop := TagsDistinct s ∧ s.units.sums = countedSum s.units.records

/-- R87, R88: each open intent belongs to one record, PENDING with its contributions as deltas for PLACE and LEAVING with their
negatives for REMOVE; each PENDING or LEAVING record belongs to one open intent; ids and tags of the open intents are distinct. -/
def IntentsMatchRecords (s : State) : Prop :=
  (s.intents.open_.map Intent.id).Nodup ∧ (s.intents.open_.map Intent.tag).Nodup ∧
  (∀ it ∈ s.intents.open_, ∃ r ∈ s.units.records, r.unit.tag = it.tag ∧
    match it.dir with
    | .place => r.state = .pending ∧ it.delta = r.contrib
    | .remove => r.state = .leaving ∧ it.delta = r.contrib.neg) ∧
  ∀ r ∈ s.units.records, r.state ≠ .parked → ∃ it ∈ s.intents.open_, it.tag = r.unit.tag

/-- R88 whole: the intents and their records agree, no tag is held twice, and at most 4 intents are open. -/
def IntentsProper (s : State) : Prop :=
  IntentsMatchRecords s ∧ TagsDistinct s ∧ s.intents.open_.length ≤ Config.intentCap

/-- R124: every peer record holds at most 4 recorded intents, with distinct ids. -/
def RecordedIntentsProper (s : State) : Prop :=
  ∀ p ∈ s.peers.peers, p.recorded.length ≤ Config.recordedCap ∧ (p.recorded.map IntentEntry.id).Nodup

/-- R82, R85, R86: the limit-excess state is TRUE exactly while a side of the view without a candidate is positive, and FALSE while
no image is in force. -/
def ExcessAgrees (s : State) : Prop :=
  match s.image with
  | none => s.view.limitExcess = false
  | some im => s.view.limitExcess = (excessNow s im).any

/-- R82 with R124, whose distinct ids make a change of the set of recorded intents the only change of what they sum to. -/
def ViewSettled (s : State) : Prop := ExcessAgrees s ∧ RecordedIntentsProper s

/-- R8: neighbours of a lane stand the station gap apart. -/
def Spaced (im : Image) (a b : UnitRecord) : Prop := a.offset + a.unit.length + im.gap ≤ b.offset

/-- R9: the port order of a lane. -/
def Ordered (order : OrderKind) (a b : UnitRecord) : Prop :=
  match order with
  | .through => a.unit.port ≤ b.unit.port
  | .blind => b.unit.port ≤ a.unit.port

/-- R8, R9 and R13 of one lane: spacing, order, within the usable length, at most 40 records. -/
def LaneProper (im : Image) (records : List UnitRecord) (lane : Nat) : Prop :=
  (onLane records lane).Pairwise (Spaced im) ∧
  (onLane records lane).Pairwise (Ordered (im.lane lane).order) ∧
  (∀ r ∈ onLane records lane, r.offset + r.unit.length ≤ (im.lane lane).len) ∧
  (onLane records lane).length ≤ Config.laneCap

/-- R8, R9, R13, R20: every lane is proper and the pool is not exceeded; while LOADING no image is in force, and without an image no
record is held. -/
def LanesProper (s : State) : Prop :=
  s.units.records.length ≤ Config.poolSize ∧
  (s.control.station = .loading → s.image = none) ∧
  match s.image with
  | none => s.units.records = []
  | some im => ∀ lane, LaneProper im s.units.records lane

/-- R117: the outbound queue holds at most one SUMMARY. -/
def OneSummary (s : State) : Prop := (s.bus.queue.filter fun n => n == .summary).length ≤ 1

/-- R21: at most 8 intake entries. -/
def IntakeBounded (s : State) : Prop := s.intake.length ≤ Config.intakeCap

end Sys2Proof.Safety
end

