-- ==== Sys2Proof/WellFormed.lean ====
section
/-! DEFINITION. Which terms of `Instr` stand for something that can reach the part. -/

namespace Sys2Proof

/-- A well-formed command: LOAD PLAN carries at most 24 entries and its staged row a target other than ACTIVE (R145), the
image is read to its length (section 11.4), a malformed request is malformed (R158), an invalid frame is invalid (R108) and a
received notice passes the encoding checks (R181). -/
def Instr.wellFormed : Instr → Bool
  | .imageLoadEnd image => image.length == Config.imageLength
  | .badRequest bytes => !wellFramed bytes
  | .loadPlanActive _ _ es => es.length ≤ Config.planPlaces
  | .loadPlanStaged target _ _ es => target != 0 && es.length ≤ Config.planPlaces
  | .invalidFrame bytes => (frameOfBytes bytes).isNone
  | .receiveSummary _ sums parked es => (FrameBody.summary sums parked es).valid
  | .receiveIntent _ e => (FrameBody.intent e).valid
  | .receiveSettle _ id sums => (FrameBody.settle id sums).valid
  | .receiveRetract _ id => (FrameBody.retract id).valid
  | .reset | .leaveReset _ _ | .rdyFirstTick | .loadTryFailed _ | .loadRetry | .listenExpiry | .null
  | .notReadySelection | .readStatus | .readShipView | .readLane _ _ | .readUnit _ | .readPeer _ | .readIntake
  | .readPlan _ _ | .readReport | .submitArrival _ | .submitDeparture _ | .withdraw _ | .reportParked _
  | .reportAbandoned _ | .reportDeparted _ | .forcedDeparture _ | .reportStayed _ | .setTrimWindow _ _
  | .selectStaged _ | .switchPlan _ | .switchEdge | .blockLane _ | .unblockLane _ | .beginRestore
  | .restoreUnit _ _ _ | .endRestore | .restart _ _ | .panelChange _ | .evaluateArrival | .evaluateDeparture
  | .waitLimitExpiry _ | .lifetimeExpiry _ | .heartbeatExpiry | .silenceExpiry _ | .attemptStart _ | .collision
  | .attemptComplete | .switchNegated | .selectionBegin | .lineIdle => true

end Sys2Proof
end

