-- ==== Sys2Proof/Certificates/Slice0/Obligations.lean ====
section
/-! DEFINITION. The statements for the provers. Each says what a command, a shared operation or the whole station does, from the rule
its docstring names. A request's outcome is written as one chain of cases in the order the manual checks them, so that every received
request completes; `reply code s t` is the next state `t` with that reply code pending, and every block that a case does not name is
as it was. -/

open Sys2Proof Sys2Proof.Machine Sys2Proof.Safety

/-! ### The step -/

/-- A step runs the command at the front of the queue of waiting commands, with the queue's rest. -/
def Obligations.StepRunsFrontCommand : Prop :=
  ∀ (c : Instr) (rest : List Instr) (s : State), step { s with pending := c :: rest } = exec c { s with pending := rest }

/-- The model's choice of log entry 7: on an empty queue nothing happens while the part is held in reset; else the evaluation that is
due is put into the queue (R29); else one tick passes: every running timer goes on by 1 ms and stops at its limit, the commands of what
has come due are put into the queue, and nothing else changes (R34, R94, R119, R132, R157, R173, R177). An evaluation is due where the
gate is open and the oldest WAITING entry without its mark is an ARRIVAL, or a DEPARTURE whose record is PARKED (R29, R61). -/
def Obligations.EmptyQueueStep : Prop :=
  (∀ s : State,
    let oldest := (s.intake.find? fun e => e.state == .waiting && !e.expired).map Entry.ask
    ((arrivalDue s).isSome = true ↔ gateOpen s = true ∧ ∃ u, oldest = some (.arrival u)) ∧
    ((departureDue s).isSome = true ↔ gateOpen s = true ∧ ∃ tag r, oldest = some (.departure tag) ∧
      s.units.find tag = some r ∧ r.state = .parked)) ∧
  ∀ s : State, s.pending = [] → step s = .next
    (if s.control.held then s
    else if (arrivalDue s).isSome then { s with pending := [.evaluateArrival] }
    else if (departureDue s).isSome then { s with pending := [.evaluateDeparture] }
    else
      let on := fun limit ms : Nat => min (ms + 1) limit
      let loader := match s.control.loader with
        | .waiting ms => Loader.waiting (on 20 ms)
        | .off => .off
        | .trying => .trying
      let first := (if s.control.ticked then [] else [Instr.rdyFirstTick]) ++
        if loader = .waiting 20 then [Instr.loadRetry] else []
      match s.image with
      | none => { s with control := { s.control with loader := loader }, pending := first }
      | some im =>
        let wait := 1000 * im.waitLimit
        let lifetime := 1000 * im.lifetime
        let silence := im.silence * im.heartbeat
        let interval := (im.silence + 1) * im.heartbeat
        let listen := s.control.listen.map (on interval)
        let heartbeat := s.bus.heartbeat.map (on im.heartbeat)
        let intake := s.intake.map fun e => if e.expired then e else { e with timer := on wait e.timer }
        let intents := s.intents.open_.map fun it => match it.state with
          | .announced ms => { it with state := .announced (on lifetime ms) }
          | .unannounced => it
          | .overdue => it
        let peers := s.peers.peers.map fun p => match p.silence with
          | .running ms => { p with silence := .running (on silence ms) }
          | .stopped => p
          | .atLimit => p
        { s with
          control := { s.control with loader := loader, listen := listen }
          intake := intake
          intents := { s.intents with open_ := intents }
          bus := { s.bus with heartbeat := heartbeat }
          peers := { s.peers with peers := peers }
          pending := first ++ (if listen = some interval then [.listenExpiry] else []) ++
            (if heartbeat = some im.heartbeat then [.heartbeatExpiry] else []) ++
            (intake.filter fun e => !e.expired && e.timer == wait).map (fun e => .waitLimitExpiry e.tag) ++
            (intents.filter fun it => it.state == .announced lifetime).map (fun it => .lifetimeExpiry it.id) ++
            (peers.filter fun p => p.silence == .running silence).map fun p => .silenceExpiry p.number })

/-- R157 with log entry 3: a request that the port does not receive changes nothing. -/
def Obligations.RequestNotReceived : Prop :=
  ∀ (c : Instr) (s : State), isRequest c = true → ¬ Received s → exec c s = .next s

/-! ### Reset, the image load and start-up -/

/-- RESET: every block at the value its reset rule gives (R20, R37, R86, R105, R122, R140, R155, R170, R171, R172). The model's choices
among the values are the PANEL state RAISED and the SWITCH level negated while held in reset (log entry 4), the empty link (log entry
14), what is discarded held as a window of 0 and 0 and as empty plans (log entry 20), and its own `fresh` and `pending` (log entry 19).
RESTART, where the port receives it, in every station state: the same reset, left at once with the lines' levels; no reply is made up
and RDY stays low (R172). -/
def Obligations.ResetAndRestart : Prop :=
  ∀ s : State,
    let r : State :=
      { port := { rdy := false, selection := false, dataOut := .released, pendingReply := none }
        control :=
          { held := true, ticked := false, station := .loading, fault := none, restoreMark := false, listen := none,
            tries := 0, loader := .off, link := [] }
        image := none
        units := { lowered := false, records := [], sums := ⟨0, 0, 0, 0⟩ }
        intake := []
        intents := { open_ := [], counter := 0 }
        view := { wMin := 0, wMax := 0, limitExcess := false }
        bus :=
          { queue := [], attempts := 0, frontSeq := none, refresh := false, sending := none, counter := 0,
            heartbeat := none, line := .unsynced }
        peers := { peers := [], stray := [] }
        plans :=
          { active := ⟨[], 0⟩, stagedA := ⟨[], 0⟩, stagedB := ⟨[], 0⟩, lanes := [], generation := 0, selected := .a,
            switchLevel := false }
        reports := []
        fresh := s.fresh
        pending := s.pending }
    exec .reset s = .next r ∧
    ∀ panel switch : Bool, Received s → exec (.restart panel switch) s = .next
      { r with
        control := { r.control with
          held := false
          loader := .trying
          link := [.pulses 9, .stop, .start, .send 0xAC, .send 0, .send 0, .start, .send 0xAD] }
        units := { r.units with lowered := panel }
        plans := { r.plans with switchLevel := switch } }

/-- LEAVE_RESET sets the PANEL state and the SWITCH level from their lines and begins the image load: the link is freed and the first
try started (R3, R147, R172, R173). RDY_FIRST_TICK raises RDY once (R157, R172). Where their condition does not hold they change
nothing (log entry 2). -/
def Obligations.LeaveResetAndFirstTick : Prop :=
  ∀ (panel switch : Bool) (s : State),
    exec (.leaveReset panel switch) s = .next
      (if s.control.held then
        { s with
          control := { s.control with
            held := false
            loader := .trying
            link := [.pulses 9, .stop, .start, .send 0xAC, .send 0, .send 0, .start, .send 0xAD] }
          units := { s.units with lowered := panel }
          plans := { s.plans with switchLevel := switch } }
      else s) ∧
    exec .rdyFirstTick s = .next
      (if s.control.held = false ∧ s.control.ticked = false then
        { s with control := { s.control with ticked := true }, port := { s.port with rdy := true } }
      else s)

/-- LOAD_TRY_FAILED raises the load try count; below 4 the loader waits, at 4 the station is FAULTED with NO_IMAGE; the link is shown
cut at the byte left unacknowledged, the model's choice of log entry 14. LOAD_RETRY, once 20 ms of the wait have passed, frees the link
and begins the next try, and before that changes nothing (R173, log entries 2 and 8). What an operation puts on the link's clock and data
lines, the data line low where the loader or the memory holds it: a start and a stop as the data line's edges while the clock is high, a
byte in nine clock pulses, most significant bit first and then the acknowledge bit; what the memory does beside a try; and that the
conditions and bits read from the lines are those of the operations (R173). That the data line otherwise changes only while the clock is
low, and where the clock stands between operations, is DEDUCED in log entry 23. -/
def Obligations.LoadTries : Prop :=
  (∀ (lost : Unacknowledged) (s : State),
    exec (.loadTryFailed lost) s = .next
      (if s.control.held = false ∧ s.control.station = .loading ∧ s.control.loader = .trying then
        { s with
          control := { s.control with
            tries := s.control.tries + 1
            link := [.pulses 9, .stop, .start, .send 0xAC] ++ match lost with
              | .writeAddress => []
              | .memoryHigh => [.send 0]
              | .memoryLow => [.send 0, .send 0]
              | .readAddress => [.send 0, .send 0, .start, .send 0xAD]
            station := if s.control.tries + 1 < 4 then .loading else .faulted
            fault := if s.control.tries + 1 < 4 then s.control.fault else some .noImage
            loader := if s.control.tries + 1 < 4 then .waiting 0 else .off } }
      else s)) ∧
  (∀ (ms : Nat) (s : State), s.control.held = false → s.control.station = .loading → s.control.loader = .waiting ms →
    exec .loadRetry s = .next
      (if 20 ≤ ms then
        { s with
          control := { s.control with
            loader := .trying
            link := [.pulses 9, .stop, .start, .send 0xAC, .send 0, .send 0, .start, .send 0xAD] } }
      else s)) ∧
  (∀ s : State, s.control.held = true ∨ s.control.station ≠ .loading ∨ (∀ ms : Nat, s.control.loader ≠ .waiting ms) →
    exec .loadRetry s = .next s) ∧
  (∀ (clockHigh : Bool) (memory : List Bool),
    let pulse := fun data : Bool => [LinkMoment.mk false data, ⟨true, data⟩, ⟨false, data⟩]
    let beside := fun place : Nat => memory.getD place true
    linkLines clockHigh [(.start, memory)] =
      (if clockHigh then [] else [⟨false, true⟩]) ++ [⟨true, true⟩, ⟨true, false⟩, ⟨false, false⟩] ∧
    linkLines clockHigh [(.stop, memory)] = [⟨false, false⟩, ⟨true, false⟩, ⟨true, true⟩] ∧
    (∀ b : Byte, linkLines clockHigh [(.send b, memory)] =
      ((List.range 8).flatMap fun k => pulse (b.getLsbD (7 - k) && beside k)) ++ pulse (beside 8)) ∧
    linkLines clockHigh [(.takeLast, memory)] = ((List.range 9).flatMap fun k => pulse (beside k)) ∧
    ∀ count : Nat,
      linkLines clockHigh [(.pulses count, memory)] = ((List.range count).flatMap fun k => pulse (beside k)) ∧
      linkLines clockHigh [(.takeAcked count, memory)] =
        (List.range count).flatMap fun i => ((List.range 8).flatMap fun k => pulse (beside (9 * i + k))) ++ pulse false) ∧
  (∀ (clockHigh : Bool) (part : LinkOp × List Bool) (rest : List (LinkOp × List Bool)),
    linkLines clockHigh [] = [] ∧
    linkLines clockHigh (part :: rest) = linkLines clockHigh [part] ++ linkLines (part.1 == .stop) rest) ∧
  (∀ s : State, loaderLines s = linkLines true (s.control.link.map fun op => (op, []))) ∧
  (∀ (fails : Bool) (image : List Byte) (op : LinkOp) (rest : List LinkOp),
    let given := fun bytes : List Byte => bytes.flatMap fun b => ((List.range 8).map fun k => b.getLsbD (7 - k)) ++ [true]
    besideMemory fails image [] = [] ∧
    besideMemory fails image (op :: rest) =
      match op with
      | .pulses _ => (op, []) :: besideMemory fails image rest
      | .start => (op, []) :: besideMemory fails image rest
      | .stop => (op, []) :: besideMemory fails image rest
      | .send _ => (op, List.replicate 8 true ++ [fails && decide (rest = [])]) :: besideMemory fails image rest
      | .takeAcked count => (op, given (image.take count)) :: besideMemory fails (image.drop count) rest
      | .takeLast => (op, given (image.take 1)) :: besideMemory fails (image.drop 1) rest) ∧
  ∀ parts : List (LinkOp × List Bool),
    linkEvents (⟨true, true⟩ :: linkLines true parts) = parts.flatMap fun x =>
      match x.1 with
      | .start => [.start]
      | .stop => [.stop]
      | .pulses count => (List.range count).map fun k => .bit (x.2.getD k true)
      | .send b => ((List.range 8).map fun k => .bit (b.getLsbD (7 - k) && x.2.getD k true)) ++ [.bit (x.2.getD 8 true)]
      | .takeAcked count => (List.range count).flatMap fun i =>
        ((List.range 8).map fun k => .bit (x.2.getD (9 * i + k) true)) ++ [.bit false]
      | .takeLast => (List.range 9).map fun k => .bit (x.2.getD k true)

/-- IMAGE_LOAD_END with the whole image: the checks of R174 in their order, the first failure FAULTED with its code; an image that
passes takes the station to LISTENING, the limit-excess state settled last (R175). While no try is in progress it changes nothing, the
model's choice of log entry 2. And the section that BAD_RANGE names (R174 step 5 with section 11.4): the first in the image's order with
a value out of its range, of the lane descriptors only those below the lane count; none where every value is in its range. -/
def Obligations.ImageLoadOutcome : Prop :=
  (∀ (image : List Byte) (s : State), image.length = 830 → s.control.held = false → s.control.station = .loading →
    s.control.loader = .trying →
    exec (.imageLoadEnd image) s = .next
      (if byteField image 0 ≠ 0x55 ∨ byteField image 1 ≠ 0x36 then faultedAfter .badMarker 7 s
      else if byteField image 2 ≠ 1 then faultedAfter .badVersion 7 s
      else if field image 3 2 ≠ 830 then faultedAfter .badLength 7 s
      else if ((image.take 5 ++ image.drop 7).map BitVec.toNat).sum % 65536 ≠ field image 5 2 then
        faultedAfter .badCheck 830 s
      else
        match faultySection image with
        | some n => faultedAfter (.badRange n) 830 s
        | none => settle (listeningWith (imageSettings image) s))) ∧
  (∀ (image : List Byte) (s : State),
    s.control.held = true ∨ s.control.station ≠ .loading ∨ s.control.loader ≠ .trying → exec (.imageLoadEnd image) s = .next s) ∧
  ∀ image : List Byte, image.length = 830 →
    let u := field image
    let w := fieldSigned image
    let station := u 7 1 ≤ 7 ∧ 1 ≤ u 8 1 ∧ u 8 1 ≤ 24 ∧ 2 ≤ u 9 1 ∧ u 9 1 ≤ 10 ∧ u 10 2 ≤ 2500 ∧ 5 ≤ u 12 4 ∧ u 12 4 ≤ 307200 ∧
      10 ≤ u 16 2 ∧ u 16 2 ≤ 900 ∧ 30 ≤ u 18 2 ∧ u 18 2 ≤ 1800 ∧ 250 ≤ u 20 2 ∧ u 20 2 ≤ 4000 ∧ 2 ≤ u 22 1 ∧ u 22 1 ≤ 8 ∧
      u 24 1 ≤ 2 ∧ u 25 1 ≤ 2 ∧ u 26 1 ≤ 1 ∧ u 27 1 ≤ 1
    let lane := fun a : Nat => u a 2 ≤ 2500 ∧ 100 ≤ u (a + 2) 2 ∧ u (a + 2) 2 ≤ 2000 ∧ u (a + 2) 2 ≤ u a 2 ∧
      -200 ≤ w (a + 4) 2 ∧ w (a + 4) 2 ≤ 200 ∧ u (a + 6) 2 ≤ 400 ∧ 20 ≤ u (a + 8) 1 ∧ u (a + 8) 1 ≤ 40 ∧
      20 ≤ u (a + 9) 1 ∧ u (a + 9) 1 ≤ 60 ∧ 20 ≤ u (a + 10) 1 ∧ u (a + 10) 1 ≤ u (a + 9) 1 ∧
      10 ≤ u (a + 11) 1 ∧ u (a + 11) 1 ≤ 200 ∧ u (a + 12) 1 ≤ 1 ∧ u (a + 13) 2 ≤ u (a + 2) 2
    let row := fun i : Nat => byteField image (390 + i)
    let apart := u 388 2 ≤ 300 ∧ (∀ i < 7, (row i).getLsbD 7 = false) ∧ ∀ i < 7, ∀ j < 7, (row i).getLsbD j = (row j).getLsbD i
    let limits := 1 ≤ u 397 4 ∧ u 397 4 ≤ 2457600 ∧ u 401 4 ≤ 983040000 ∧ 1 ≤ u 405 4 ∧ u 405 4 ≤ 2088960000 ∧
      w 409 6 ≤ w 415 6 ∧ -12288000000 ≤ w 409 6 ∧ w 415 6 ≤ 12288000000
    let bounds := fun a : Nat => u a 4 ≤ 307200 ∧
      -122880000 ≤ w (a + 4) 4 ∧ w (a + 4) 4 ≤ w (a + 8) 4 ∧ w (a + 8) 4 ≤ 122880000 ∧
      -1536000000 ≤ w (a + 12) 4 ∧ w (a + 12) 4 ≤ w (a + 16) 4 ∧ w (a + 16) 4 ≤ 1536000000 ∧
      u (a + 20) 4 ≤ u (a + 24) 4 ∧ u (a + 24) 4 ≤ 261120000
    let profile := fun a : Nat => u a 1 < 32 ∧ u (a + 2) 1 ≤ 1 ∧ u (a + 3) 2 ≤ 500
    let entry := fun a : Nat => u a 1 ≤ 1 ∧ u (a + 1) 1 ≤ 6 ∧ (u (a + 2) 1 ≤ 15 ∨ u (a + 2) 1 = 0xFF)
    let inRange : List Prop :=
      [station, ∀ n < u 8 1, lane (28 + 15 * n), apart, limits, ∀ n < 8, bounds (421 + 28 * n), ∀ n < 16, profile (645 + 7 * n),
        (∀ n < 24, entry (757 + 3 * n)) ∧ u 829 1 ≤ 15]
    (faultySection image = none ↔ ∀ p ∈ inRange, p) ∧
    ∀ n : Nat, faultySection image = some (n + 1) ↔ ∃ p, inRange[n]? = some p ∧ ¬ p ∧ ∀ q ∈ inRange.take n, q

/-- The settings of an image whose ranges pass step 5 of R174 lie in their ranges: those of the STATION section (R2, R21, R49, R87,
R119, R123), the lane descriptors with their two joint conditions (R1), K and the matrix, symmetric and with bit 7 of every row zero
(R48), the limits and the window (R69, R70), the bounds (R72), the profiles (R141) and the initial plan (R142); and every mode, drive,
order, state, reservation, profile and truth-value code is one that section 11.4 defines, read as it says. And each setting is read
from its own bytes of the image, most significant byte first and signed ones two's complement (chapter 11, section 11.4, the sections in
the order of R174); the expected peers are the stations of the expected set's bits but for the own number, in ascending number (R123). -/
def Obligations.AcceptedImageInRange : Prop :=
  (∀ (image : List Byte) (place n : Nat), place + n ≤ image.length →
    field image place n = ((List.range n).map fun k => (byteField image (place + k)).toNat * 256 ^ (n - 1 - k)).sum ∧
    fieldSigned image place n =
      if 2 * field image place n < 256 ^ n then (field image place n : Int) else field image place n - (256 ^ n : Nat)) ∧
  ∀ image : List Byte, image.length = 830 → faultySection image = none → let im := imageSettings image
    (field image 7 1 ≤ 7 ∧ im.stationNo.val = field image 7 1) ∧
    (let u := field image
    let w := fieldSigned image
    (im.laneCount = u 8 1 ∧ im.gap = u 9 1 ∧ im.xMid = u 10 2 ∧ im.dMax = u 12 4 ∧ im.waitLimit = u 16 2 ∧ im.lifetime = u 18 2 ∧
      im.heartbeat = u 20 2 ∧ im.silence = u 22 1) ∧
    ((∀ n : StationNo, n ∈ im.expectedPeers ↔ (byteField image 23).getLsbD n.val = true ∧ n ≠ im.stationNo) ∧
      im.expectedPeers.Pairwise (fun a b => a < b)) ∧
    (∀ n < im.laneCount, let a := 28 + 15 * n; let d := im.lane n
      d.xStop = u a 2 ∧ d.len = u (a + 2) 2 ∧ d.y = w (a + 4) 2 ∧ d.z = u (a + 6) 2 ∧ d.width = u (a + 8) 1 ∧ d.high = u (a + 9) 1 ∧
        d.low = u (a + 10) 1 ∧ d.axle = u (a + 11) 1 ∧ d.powered = u (a + 13) 2) ∧
    (im.apart = u 388 2 ∧ ∀ i < 7, im.matrix.getD i 0 = byteField image (390 + i)) ∧
    (im.mMax = u 397 4 ∧ im.tMax = u 401 4 ∧ im.vMax = u 405 4 ∧ im.wMin = w 409 6 ∧ im.wMax = w 415 6) ∧
    (∀ n < 8, let a := 421 + 28 * n; let b := im.bounds.getD n ⟨⟨0, 0, 0, 0⟩, ⟨0, 0, 0, 0⟩⟩
      b.hi.m = u a 4 ∧ b.lo.t = w (a + 4) 4 ∧ b.hi.t = w (a + 8) 4 ∧ b.lo.l = w (a + 12) 4 ∧ b.hi.l = w (a + 16) 4 ∧
        b.lo.v = u (a + 20) 4 ∧ b.hi.v = u (a + 24) 4) ∧
    (∀ n < 16, let a := 645 + 7 * n; let p := im.profiles.getD n Profile.none
      p.kinds = byteField image a ∧ p.groups = byteField image (a + 1) ∧ p.threshold = u (a + 3) 2 ∧
        16 * p.wH + p.wT = u (a + 5) 1 ∧ 16 * p.wO + p.wF = u (a + 6) 1) ∧
    (∀ n < 24, let a := 757 + 3 * n; let e := im.plan.entry n
      e.reserved = (if u (a + 1) 1 = 0 then none else some (u (a + 1) 1)) ∧
        e.profile = if u (a + 2) 1 = 0xFF then none else some (u (a + 2) 1)) ∧
    im.plan.dflt = u 829 1) ∧
    (1 ≤ im.laneCount ∧ im.laneCount ≤ 24 ∧ 2 ≤ im.gap ∧ im.gap ≤ 10 ∧ im.xMid ≤ 2500) ∧
    (5 ≤ im.dMax ∧ im.dMax ≤ 307200 ∧ 10 ≤ im.waitLimit ∧ im.waitLimit ≤ 900 ∧ 30 ≤ im.lifetime ∧ im.lifetime ≤ 1800) ∧
    (250 ≤ im.heartbeat ∧ im.heartbeat ≤ 4000 ∧ 2 ≤ im.silence ∧ im.silence ≤ 8 ∧ im.apart ≤ 300) ∧
    ((field image 24 1, im.subst) ∈ [(0, SubstMode.hold), (1, .bound), (2, .freeze)] ∧
      (field image 25 1, im.switchMode) ∈ [(0, SwitchMode.direct), (1, .line), (2, .request)] ∧
      (field image 26 1, im.openDrain) ∈ [(0, false), (1, true)] ∧
      (field image 27 1, im.activeHigh) ∈ [(0, false), (1, true)]) ∧
    im.lanes.length = im.laneCount ∧
    (∀ d ∈ im.lanes, d.xStop ≤ 2500 ∧ 100 ≤ d.len ∧ d.len ≤ 2000 ∧ d.len ≤ d.xStop ∧ -200 ≤ d.y ∧ d.y ≤ 200 ∧
      d.z ≤ 400 ∧ 20 ≤ d.width ∧ d.width ≤ 40 ∧ 20 ≤ d.high ∧ d.high ≤ 60 ∧ 20 ≤ d.low ∧ d.low ≤ d.high ∧
      10 ≤ d.axle ∧ d.axle ≤ 200 ∧ d.powered ≤ d.len) ∧
    (∀ lane < im.laneCount, (field image (28 + 15 * lane + 12) 1, (im.lane lane).order) ∈ [(0, OrderKind.through), (1, .blind)]) ∧
    (im.matrix.length = 7 ∧ (∀ row ∈ im.matrix, row.getLsbD 7 = false) ∧
      ∀ i < 7, ∀ j < 7, (im.matrix.getD i 0).getLsbD j = (im.matrix.getD j 0).getLsbD i) ∧
    (1 ≤ im.mMax ∧ im.mMax ≤ 2457600 ∧ 0 ≤ im.tMax ∧ im.tMax ≤ 983040000 ∧ 1 ≤ im.vMax ∧ im.vMax ≤ 2088960000) ∧
    (im.wMin ≤ im.wMax ∧ -12288000000 ≤ im.wMin ∧ im.wMax ≤ 12288000000) ∧
    (im.bounds.length = 8 ∧ ∀ b ∈ im.bounds, b.lo.m = 0 ∧ 0 ≤ b.hi.m ∧ b.hi.m ≤ 307200 ∧
      -122880000 ≤ b.lo.t ∧ b.lo.t ≤ b.hi.t ∧ b.hi.t ≤ 122880000 ∧
      -1536000000 ≤ b.lo.l ∧ b.lo.l ≤ b.hi.l ∧ b.hi.l ≤ 1536000000 ∧
      0 ≤ b.lo.v ∧ b.lo.v ≤ b.hi.v ∧ b.hi.v ≤ 261120000) ∧
    (im.profiles.length = 16 ∧ ∀ p ∈ im.profiles, p.kinds.toNat < 32 ∧ p.threshold ≤ 500 ∧
      p.wH ≤ 15 ∧ p.wT ≤ 15 ∧ p.wO ≤ 15 ∧ p.wF ≤ 15) ∧
    (∀ i < 16, (field image (645 + 7 * i + 2) 1, (im.profiles.getD i Profile.none).unverified) ∈ [(0, false), (1, true)]) ∧
    (im.plan.entries.length = 24 ∧ im.plan.dflt ≤ 15 ∧ ∀ e ∈ im.plan.entries,
      (∀ p ∈ e.reserved, 1 ≤ p ∧ p ≤ 6) ∧ ∀ p ∈ e.profile, p ≤ 15) ∧
    ∀ lane < 24, (field image (757 + 3 * lane) 1, (im.plan.entry lane).closed) ∈ [(0, false), (1, true)] ∧
      field image (757 + 3 * lane + 1) 1 ≤ 6 ∧
      (field image (757 + 3 * lane + 2) 1 ≤ 15 ∨ field image (757 + 3 * lane + 2) 1 = 0xFF)

/-- LISTEN_EXPIRY in LISTENING with the listen timer at the listen interval (n + 1) × H: RESTORING and the mark cleared where it is
set, else JOINED with a SUMMARY asked for, the heartbeat timer from 0 and held entries released; before the interval is reached it
changes nothing (R177, R179, R118, R119, log entry 8), nor where the station is not LISTENING or the timer stands stopped (log
entry 2). -/
def Obligations.ListenExpiryOutcome : Prop :=
  (∀ s : State, s.image = none ∨ s.control.station ≠ .listening ∨ s.control.listen = none → exec .listenExpiry s = .next s) ∧
  ∀ (ms : Nat) (s : State) (im : Image), s.image = some im → s.control.station = .listening → s.control.listen = some ms →
    exec .listenExpiry s = .next
      (if ms < (im.silence + 1) * im.heartbeat then s
      else if s.control.restoreMark then
        { s with control := { s.control with station := .restoring, restoreMark := false, listen := none } }
      else
        { s with
          control := { s.control with station := .joined, listen := none }
          bus := { s.bus.askSummary with heartbeat := some 0 }
          intake := s.intake.map Entry.release })

/-- BEGIN RESTORE and END RESTORE in every station state (R177, R179). -/
def Obligations.RestoreBeginAndEnd : Prop :=
  ∀ s : State, Received s →
    exec .beginRestore s =
      (match s.control.station with
      | .loading => reply .unavailable s s
      | .faulted => reply .unavailable s s
      | .listening => reply .done s { s with control := { s.control with restoreMark := true } }
      | .restoring => reply .wrongState s s
      | .joined => reply .wrongState s s
      | .quiet => reply .wrongState s s) ∧
    exec .endRestore s =
      (match s.control.station with
      | .loading => reply .unavailable s s
      | .faulted => reply .unavailable s s
      | .listening => reply .wrongState s s
      | .restoring => reply .done s
          { s with
            control := { s.control with station := .joined }
            bus := { s.bus.askSummary with heartbeat := some 0 }
            intake := s.intake.map Entry.release }
      | .joined => reply .wrongState s s
      | .quiet => reply .wrongState s s)

/-- RESTORE UNIT (R178): UNAVAILABLE and WRONG_STATE by station state, then the seven checks in order; a request that passes inserts
the clamped record PARKED at the offset named, its contributions added to the deck sums, its lane compared with its threshold and the
limit-excess state settled (R15, R18). RESTORING with no image in force, which the part never is, answers UNAVAILABLE. -/
def Obligations.RestoreUnitOutcome : Prop :=
  ∀ (lane : Byte) (offset : BitVec 16) (u : RawUnit) (s : State), Received s →
    exec (.restoreUnit lane offset u) s =
      if s.control.station = .loading ∨ s.control.station = .faulted then reply .unavailable s s
      else if s.control.station ≠ .restoring then reply .wrongState s s
      else
        match s.image with
        | none => reply .unavailable s s
        | some im =>
          let d := im.lane lane.toNat
          let others := s.units.records.filter fun r => r.lane == lane.toNat
          let c := u.clamped
          let U := match others.getLast? with
            | none => 0
            | some r => r.offset + r.unit.length + im.gap
          let r : UnitRecord :=
            { unit := c, lane := lane.toNat, offset := offset.toNat, state := .parked
              contrib :=
                { m := c.mass
                  t := c.mass * (2 * d.y)
                  l := c.mass * (2 * (d.xStop : Int) - 2 * (offset.toNat : Int) - c.length - 2 * im.xMid)
                  v := c.mass * (2 * d.z + c.height) } }
          if TagHeld s u.tag then reply .duplicateTag s s
          else if BadRecord im.laneCount u then reply .badValue s s
          else if im.laneCount ≤ lane.toNat then reply .badValue s s
          else if offset.toNat < U then reply .badValue s s
          else if d.len < offset.toNat + c.length then reply .badValue s s
          else if
            (match others.getLast?, d.order with
            | none, _ => false
            | some r, .through => decide (c.port < r.unit.port)
            | some r, .blind => decide (r.unit.port < c.port)) then reply .badValue s s
          else if 40 ≤ others.length ∨ 512 ≤ s.units.records.length then reply .full s s
          else reply .done s (settle (compareNearFull im lane.toNat
            { s with units := { s.units with records := s.units.records ++ [r], sums := s.units.sums.add r.contrib } }))

/-! ### The terminal port -/

/-- SELECTION_BEGIN lowers RDY and shifts out the pending reply, or the not-ready marker where none is pending; NOT_READY_SELECTION
shifts out the marker and changes nothing else; after a reply come filler bytes (R156, R157, section 11.2), each byte most significant
bit first, and so are bytes taken in, a last one left incomplete ignored (R156). A SELECTION_BEGIN with RDY low and a
NOT_READY_SELECTION with RDY high change nothing, the model's choice of log entry 2. On the port's lines, mode 0 (R156): a bit is taken
in from data-in at each rising edge of the clock, and the next bit is put on data-out at each falling edge; so bits clocked in from a
clock at rest are the bits taken in, and each rising edge finds its own bit of the reply on data-out. That the first bit stands on
data-out from the assertion of the select line on is DEDUCED in log entry 24. -/
def Obligations.PortSelections : Prop :=
  (∀ s : State, s.control.held = false →
    exec .selectionBegin s = .next
      (if s.port.rdy then
        { s with port :=
            { rdy := false
              selection := true
              dataOut := match s.port.pendingReply with
                | some old => .reply old
                | none => .marker
              pendingReply := s.port.pendingReply } }
      else s) ∧
    exec .notReadySelection s = .next
      (if s.port.rdy then s else { s with port := { s.port with dataOut := .marker } })) ∧
  (∀ (p : Port) (bytes : List Byte) (place : Nat),
    (p.dataOut = .reply bytes → shiftedOut p place = some (if h : place < bytes.length then bytes[place] else 0xFF)) ∧
    (p.dataOut = .marker → shiftedOut p place = some 0xA5) ∧
    (∀ k < 8, shiftedOutBit p (8 * place + k) = (shiftedOut p place).map fun b => b.getLsbD (7 - k)) ∧
    ∀ rest : List Bool, rest.length < 8 →
      takenIn ((bytes.flatMap fun b => (List.range 8).map fun k => b.getLsbD (7 - k)) ++ rest) = bytes) ∧
  (∀ (p : Port) (moments : List TerminalMoment) (panel switch : Bool),
    let moment := fun i : Nat => moments.getD i ⟨false, false⟩
    sampledIn moments = ((moments.zip (moments.drop 1)).filter fun x => !x.1.clock && x.2.clock).map (fun x => x.2.dataIn) ∧
    (dataOutLine p moments).length = moments.length ∧
    (∀ i < moments.length, (dataOutLine p moments)[i]? =
      some (shiftedOutBit p ((List.range i).filter fun j => (moment j).clock && !(moment (j + 1)).clock).length)) ∧
    requestClockedIn panel switch moments = requestOfBytes panel switch (takenIn (sampledIn moments))) ∧
  ∀ (p : Port) (bits : List Bool),
    let moments := bits.flatMap fun bit => [TerminalMoment.mk false bit, ⟨true, bit⟩, ⟨false, bit⟩]
    sampledIn moments = bits ∧ ∀ k < bits.length, (dataOutLine p moments)[3 * k + 1]? = some (shiftedOutBit p k)

/-- R159: NULL is answered in every station state with an exact copy of the reply that was pending, or with DONE where none was, and
reaches no other block. -/
def Obligations.NullCopiesPendingReply : Prop :=
  ∀ s : State, Received s → exec .null s = .next (s.withPort (answered s.port (s.port.pendingReply.getD [0x00])))

/-- R158: the bytes of a selection form a request exactly when they are well framed, and what is not well framed is refused with
BAD_REQUEST and reaches no other block. The body lengths of each request kind, and the reply codes, are those of section 11.2; a kind
it does not table allows no length. -/
def Obligations.BadRequestRefused : Prop :=
  (∀ kind len : Nat, lengthAllowed kind len = true ↔
    (kind, len) ∈ [(0x00, 0), (0x01, 0), (0x02, 0), (0x03, 2), (0x04, 4), (0x05, 1), (0x06, 0), (0x07, 2), (0x08, 0), (0x10, 15),
      (0x10, 16), (0x11, 4), (0x12, 4), (0x20, 4), (0x21, 4), (0x22, 5), (0x23, 4), (0x30, 12), (0x41, 1), (0x42, 1), (0x43, 1),
      (0x44, 1), (0x50, 0), (0x51, 18), (0x51, 19), (0x52, 0), (0x5F, 0)] ∨
    (kind = 0x40 ∧ ∃ entries ≤ 24, len = 3 + 3 * entries)) ∧
  (∀ code : ReplyCode, (code, code.byte) ∈ [(ReplyCode.done, (0x00 : Byte)), (.taken, 0x01), (.full, 0x02), (.badRecord, 0x03),
    (.duplicateTag, 0x04), (.unknownTag, 0x05), (.wrongState, 0x06), (.wrongMode, 0x07), (.badValue, 0x08), (.busy, 0x09),
    (.unavailable, 0x0A), (.badRequest, 0x0B), (.empty, 0x0C)]) ∧
  ∀ bytes : List Byte,
    (wellFramed bytes = false ↔ bytes.length < 2 ∨
      lengthAllowed (byteField bytes 0).toNat (byteField bytes 1).toNat = false ∨
      bytes.length < 2 + (byteField bytes 1).toNat) ∧
    (∀ panel switch : Bool, requestOfBytes panel switch bytes = none ↔ wellFramed bytes = false) ∧
    ∀ s : State, Received s → wellFramed bytes = false → exec (.badRequest bytes) s = reply .badRequest s s

/-- The seven reads other than READ REPORT leave every block as it was: UNAVAILABLE in LOADING, else the reply made from the state as
it stands (R160, R161 to R167). READ_PLAN draws one free value (log entry 17). -/
def Obligations.ReadsChangeNothing : Prop :=
  ∀ s : State, Received s →
    let made := fun (body : List Byte) => if s.control.station = .loading then [0x0A] else body
    exec .readStatus s = .next (s.withPort (answered s.port (made (0x00 :: statusBody s)))) ∧
    exec .readShipView s = .next (s.withPort (answered s.port (made (0x00 :: shipViewBody s)))) ∧
    (∀ lane first : Byte,
      exec (.readLane lane first) s = .next (s.withPort (answered s.port (made (laneReply s lane.toNat first.toNat))))) ∧
    (∀ tag : Tag, exec (.readUnit tag) s = .next (s.withPort (answered s.port (made (unitReply s tag))))) ∧
    (∀ number : Byte, exec (.readPeer number) s = .next (s.withPort (answered s.port (made (peerReply s number))))) ∧
    exec .readIntake s = .next (s.withPort (answered s.port (made (0x00 :: intakeBody s)))) ∧
    ∀ plan first : Byte,
      exec (.readPlan plan first) s =
        .next ({ s with fresh := s.fresh + 1 }.withPort (answered s.port (made (planReply s plan first))))

/-- The bodies of the read replies, field by field, and the reads that are refused (R161 to R167, section 11.3). Without an image, the
answers of R85, R163 to R167 and R176. Bit n of READ STATUS's stray set is the model's choice of log entry 22, and the last two bytes of
an absent pending entry are free values (log entry 17). -/
def Obligations.ReadReplyShapes : Prop :=
  ∀ s : State,
    let one := fun n : Nat => BitVec.ofNat 8 n
    let flag := fun b : Bool => if b then (1 : Byte) else 0
    let six := fun lo hi ex : Int => beInt 6 lo ++ beInt 6 hi ++ beInt 6 ex
    let sums := fun q : Quad => beInt 4 q.m ++ beInt 4 q.t ++ beInt 4 q.l ++ beInt 4 q.v
    let idDir := fun (id : IntentId) (dir : Direction) => match dir with
      | .place => one id.val
      | .remove => one (id.val + 16)
    let kind : UnitKind → Byte := fun
      | .car => 0
      | .van => 1
      | .lorry => 2
      | .trailer => 3
      | .coach => 4
    let parking : RecordState → Byte := fun
      | .pending => 0
      | .parked => 1
      | .leaving => 2
    let station : Byte := match s.control.station with
      | .loading => 0
      | .faulted => 1
      | .listening => 2
      | .restoring => 3
      | .joined => 4
      | .quiet => 5
    let fault : List Byte := match s.control.fault with
      | none => [0, 0]
      | some .noImage => [1, 0]
      | some .badMarker => [2, 0]
      | some .badVersion => [3, 0]
      | some .badLength => [4, 0]
      | some .badCheck => [5, 0]
      | some (.badRange n) => [6, one n]
    let orFF : Option Nat → Byte := fun
      | none => 0xFF
      | some n => one n
    let orZero : Option Nat → Byte := fun
      | none => 0
      | some n => one n
    let entry := fun e : PlanEntry => [flag e.closed, orZero e.reserved, orFF e.profile]
    let front : Byte := match s.bus.queue with
      | [] => 0
      | .intent _ :: _ => 1
      | .settle _ :: _ => 2
      | .retract _ :: _ => 3
      | .summary :: _ => 4
    (s.control.station = .faulted → statusBody s = [station] ++ fault ++ List.replicate 39 0 ++ [1, 0, 0]) ∧
    (s.control.station ≠ .faulted → ∃ stray : Byte, (∀ n : StationNo, stray.getLsbD n.val = s.peers.stray.contains n) ∧
      statusBody s = [station] ++ fault ++
        [flag s.control.restoreMark, orZero (s.image.map fun im => im.stationNo.val),
          orZero (s.image.map Image.laneCount), flag s.units.lowered, flag s.plans.switchLevel] ++
        sums s.units.sums ++ beBytes 4 (s.units.records.map fun r => r.unit.mass).sum ++
        beBytes 2 (512 - s.units.records.length) ++
        [one s.intake.length, flag (gateOpen s), one s.intents.open_.length,
          flag (s.intents.open_.any fun it => it.state == .unannounced), one s.intents.counter.val, flag s.view.limitExcess,
          one s.bus.queue.length, front, one s.bus.attempts, s.bus.counter, stray, one s.reports.length, flag (alarm s), flag (!s.reports.isEmpty),
          s.plans.generation]) ∧
    (s.image = none → shipViewBody s = List.replicate 141 0 ++ [0xFF] ∧
      (∀ lane first : Nat, laneReply s lane first = [0x08]) ∧ (∀ tag : Tag, unitReply s tag = [0x05]) ∧
      (∀ n : Byte, peerReply s n = if n.toNat < 8 then [0x00, n, 4] else [0x08]) ∧
      (s.intake = [] → intakeBody s = [0]) ∧ ∀ code first : Byte, planReply s code first = [0x08]) ∧
    ∀ im : Image, s.image = some im →
      let subst : Byte := match im.subst with
        | .hold => 0
        | .bound => 1
        | .freeze => 2
      let switchMode : Byte := match im.switchMode with
        | .direct => 0
        | .line => 1
        | .request => 2
      let selected : Byte := match s.plans.selected with
        | .a => 1
        | .b => 2
      (let lo := viewLow s im none ⟨0, 0, 0, 0⟩
      let hi := viewHigh s im none ⟨0, 0, 0, 0⟩
      let ex := expectedView s im ⟨0, 0, 0, 0⟩
      shipViewBody s =
        six lo.m hi.m ex.m ++ six lo.t hi.t ex.t ++ six lo.l hi.l ex.l ++ six lo.v hi.v ex.v ++
        beInt 4 im.mMax ++ beInt 4 im.tMax ++ beInt 4 im.vMax ++ beInt 6 s.view.wMin ++ beInt 6 s.view.wMax ++
        beInt 6 (max 0 (hi.m - im.mMax)) ++ beInt 6 (max 0 (hi.t - im.tMax)) ++ beInt 6 (max 0 (-im.tMax - lo.t)) ++
        beInt 6 (max 0 (hi.l - s.view.wMax)) ++ beInt 6 (max 0 (s.view.wMin - lo.l)) ++ beInt 6 (max 0 (hi.v - im.vMax)) ++
        [flag s.view.limitExcess] ++ beInt 2 (listFigure s im) ++ beInt 2 (trimFigure s im) ++ beInt 2 (massFigure s im) ++
        beInt 2 (verticalFigure s im) ++ [subst]) ∧
      (∀ lane first : Nat,
        let d := im.lane lane
        let rs := s.units.records.filter fun r => r.lane == lane
        let U := match rs.getLast? with
          | none => 0
          | some r => r.offset + r.unit.length + im.gap
        let order : Byte := match d.order with
          | .through => 0
          | .blind => 1
        let exit := match d.order with
          | .through => one 0
          | .blind => one (rs.length - 1)
        laneReply s lane first =
          if lane < im.laneCount then
            [0x00, one lane, order] ++ beBytes 2 d.len ++
              [one (if s.units.lowered then d.low else d.high)] ++ beBytes 2 U ++ beInt 2 ((d.len : Int) - U) ++
              [one rs.length, if rs = [] then 0xFF else exit] ++
              (((rs.drop first).take 8).mapIdx fun i r =>
                [one (first + i)] ++ beBytes 4 r.unit.tag.toNat ++
                  [kind r.unit.kind, one r.unit.length, one r.unit.width, one r.unit.height] ++ beBytes 2 r.unit.mass ++
                  [one r.unit.port, one r.unit.group, flag r.unit.power] ++ beBytes 2 r.offset ++
                  [parking r.state]).flatten
          else [0x08]) ∧
      (∀ tag : Tag, unitReply s tag =
        match s.units.records.find? fun r => r.unit.tag == tag with
        | none => [0x05]
        | some r =>
          let u := r.unit
          let intent : List Byte := match r.state, s.intents.open_.find? fun it => it.tag == tag with
            | .parked, _ => [0, 0, 0, 0, 0, 0, 0]
            | .pending, none => [0, 0, 0, 0, 0, 0, 0]
            | .leaving, none => [0, 0, 0, 0, 0, 0, 0]
            | .pending, some it | .leaving, some it =>
              [1, idDir it.id it.dir] ++
                match it.state with
                | .unannounced => [0] ++ beBytes 4 (1000 * im.lifetime)
                | .announced ms => [1] ++ beBytes 4 (1000 * im.lifetime - ms)
                | .overdue => [2, 0, 0, 0, 0]
          [0x00] ++ beBytes 4 u.tag.toNat ++ [kind u.kind, one u.length, one u.width, one u.height] ++
            beBytes 2 u.mass ++ [one u.axle, one u.port, one u.group, flag u.power, flag u.unverified, orFF u.preferred] ++
            [one r.lane] ++ beBytes 2 r.offset ++ [parking r.state] ++
            beInt 2 r.contrib.m ++ beInt 4 r.contrib.t ++ beInt 4 r.contrib.l ++ beInt 4 r.contrib.v ++ intent) ∧
      (∀ number : Byte, peerReply s number =
        if h : number.toNat < 8 then
          let n : StationNo := ⟨number.toNat, h⟩
          [0x00, number] ++
            if n = im.stationNo then [0]
            else
              match s.peers.peers.find? fun p => p.number == n with
              | some p =>
                [1, match p.lock with
                  | .unheard => 0
                  | .locked => 1
                  | .doubtful => 2
                  | .lost => 3] ++
                  (match p.lastSeq with
                  | none => [0xFF, 0xFF]
                  | some q => [0, q]) ++ sums p.sums ++ beBytes 2 p.parked ++
                  [one p.recorded.length] ++
                  (p.recorded.map fun e => [idDir e.id e.dir] ++ beInt 2 e.delta.m ++ beInt 4 e.delta.t ++
                    beInt 4 e.delta.l ++ beInt 4 e.delta.v).flatten ++
                  match p.silence with
                  | .stopped => [0xFF, 0xFF, 0xFF, 0xFF]
                  | .running ms => beBytes 4 (im.silence * im.heartbeat - ms)
                  | .atLimit => [0, 0, 0, 0]
              | none => if n ∈ s.peers.stray then [2] else [3]
        else [0x08]) ∧
      intakeBody s = [one s.intake.length] ++ (s.intake.map fun e =>
        (match e.ask with
          | .arrival _ => [0]
          | .placedArrival _ => [0]
          | .departure _ => [1] : List Byte) ++ beBytes 4 e.tag.toNat ++
          (match e.state with
          | .waiting => [0, 0, (0xFF : Byte)]
          | .held .laneState => [1, 1, 0xFF]
          | .held .profile => [1, 2, 0xFF]
          | .held .reservation => [1, 3, 0xFF]
          | .held .shipLimits => [1, 4, 0xFF]
          | .placing id => [2, 0, one id.val]) ++
          beBytes 4 (if e.expired then 0 else 1000 * im.waitLimit - e.timer) ++ [flag e.expired]).flatten ∧
      ∀ code first : Byte,
        let plan := if code = 0 then s.plans.active else if code = 1 then s.plans.stagedA else s.plans.stagedB
        planReply s code first =
          if 2 < code.toNat ∨ im.laneCount ≤ first.toNat then [0x08]
          else
            [0x00, switchMode, s.plans.generation, selected, one plan.dflt] ++
            (((List.range im.laneCount).drop first.toNat).map fun lane =>
              entry (plan.entry lane) ++
                if code = 0 then
                  (match (s.plans.lane lane).pending with
                  | none => [0xFF, Config.freeByte s.fresh (2 * lane), Config.freeByte s.fresh (2 * lane + 1)]
                  | some e => entry e) ++ [flag (s.plans.lane lane).blocked, flag (s.plans.lane lane).reported]
                else []).flatten

/-- READ REPORT removes and returns the oldest report, or answers EMPTY; where fewer than 28 remain, the oldest entry that is marked
and not PLACING is then refused with WAIT_LIMIT, one and no more (R169, R35). The report record of each kind, field by field, as section
11.3 lays it out, multi-byte fields most significant byte first and signed ones two's complement. -/
def Obligations.ReadReportOutcome : Prop :=
  (∀ r : Report,
    let one := fun n : Nat => BitVec.ofNat 8 n
    let why : RefusedReason → Byte := fun
      | .dimensions => 1
      | .axle => 2
      | .power => 3
      | .room => 4
      | .order => 5
      | .apart => 6
      | .deckMass => 7
      | .notAtExit => 8
      | .waitLimit => 9
    r.bytes =
      match r with
      | .placed tag lane s id list => [0x01] ++ beBytes 4 tag.toNat ++ [one lane] ++ beBytes 2 s ++ [one id.val] ++ beInt 2 list
      | .departureCleared tag id => [0x02] ++ beBytes 4 tag.toNat ++ [one id.val]
      | .refused tag reason => [0x03] ++ beBytes 4 tag.toNat ++ [why reason]
      | .overdue tag id => [0x04] ++ beBytes 4 tag.toNat ++ [one id.val]
      | .clearanceConflict lane count => [0x05, one lane, one count]
      | .laneNearFull lane free => [0x06, one lane] ++ beInt 2 free
      | .planSwitched generation deferred => [0x07, generation, one deferred]
      | .laneEntryApplied lane generation => [0x08, one lane, generation]
      | .limitExcess sides => [0x09, sides]
      | .excessCleared => [0x0A]
      | .peerLost n => [0x0B, one n.val]
      | .peerRegained n => [0x0C, one n.val]
      | .strayStation n => [0x0D, one n.val]
      | .duplicateNumber n => [0x0E, one n.val]) ∧
  (∀ n x : Nat, beBytes n x = (List.range n).map fun k => BitVec.ofNat 8 (x / 256 ^ (n - 1 - k))) ∧
  (∀ (n : Nat) (x : Int), beInt n x = beBytes n (x % (256 ^ n : Nat)).toNat) ∧
  ∀ s : State, Received s →
    exec .readReport s =
      if s.control.station = .loading then reply .unavailable s s
      else
        match s.reports with
        | [] => reply .empty s s
        | r :: rest =>
          let marked := if rest.length < 28 then s.intake.find? (fun e => e.expired && !e.isPlacing) else none
          .next (State.withPort
            (match marked with
            | none => { s with reports := rest }
            | some e =>
              { s with
                reports := rest ++ [.refused e.tag .waitLimit]
                intake := s.intake.eraseP (fun x => x.expired && !x.isPlacing) })
            (answered s.port (0x00 :: r.bytes)))

/-! ### Intake -/

/-- SUBMIT ARRIVAL: station state, room, the faults of R23, then the tag; a submission taken joins the back of the queue, clamped,
WAITING, its timer from 0 and its mark clear (R23 to R25). -/
def Obligations.SubmitArrivalOutcome : Prop :=
  ∀ (u : RawUnit) (s : State), Received s →
    exec (.submitArrival u) s = whileServed s fun im =>
      if 8 ≤ s.intake.length then reply .full s s
      else if BadRecord im.laneCount u then reply .badRecord s s
      else if TagHeld s u.tag then reply .duplicateTag s s
      else reply .taken s { s with intake := s.intake ++ [⟨.arrival u.clamped, .waiting, 0, false⟩] }

/-- R24: how a record that passed the checks of R23 is clamped, and that the clamped record lies in the ranges of R5. -/
def Obligations.ClampedWithinRanges : Prop :=
  ∀ (laneCount : Nat) (u : RawUnit), ¬ BadRecord laneCount u → let c := u.clamped
    c.length = max 20 u.length.toNat ∧ c.width = max 15 u.width.toNat ∧ c.height = max 10 u.height.toNat ∧
    c.mass = max 5 u.mass.toNat ∧ c.axle = min (max 1 u.axle.toNat) c.mass ∧
    c.tag = u.tag ∧ c.kind.code = u.kind.toNat ∧ c.port = u.port.toNat ∧ c.group = u.group.toNat ∧
    (c.power = true ↔ u.power.toNat = 1) ∧ (c.unverified = true ↔ u.reading.toNat = 1) ∧
    c.preferred = u.preferred.map BitVec.toNat ∧
    c.tag ≠ 0 ∧ 20 ≤ c.length ∧ c.length ≤ 250 ∧ 15 ≤ c.width ∧ c.width ≤ 30 ∧ 10 ≤ c.height ∧ c.height ≤ 50 ∧
    5 ≤ c.mass ∧ c.mass ≤ 600 ∧ 1 ≤ c.axle ∧ c.axle ≤ c.mass ∧ c.axle ≤ 200 ∧ 1 ≤ c.port ∧ c.port ≤ 6 ∧ c.group ≤ 7 ∧
    ∀ p ∈ c.preferred, p < laneCount

/-- R26: SUBMIT DEPARTURE's five checks in order; a submission taken joins the back of the queue as a WAITING DEPARTURE. -/
def Obligations.SubmitDepartureOutcome : Prop :=
  ∀ (tag : Tag) (s : State), Received s →
    exec (.submitDeparture tag) s =
      if s.control.station = .loading ∨ s.control.station = .faulted ∨ s.control.station = .quiet then
        reply .unavailable s s
      else
        match s.units.records.find? fun r => r.unit.tag == tag with
        | none => reply .unknownTag s s
        | some r =>
          if r.state = .pending ∨ r.state = .leaving then reply .wrongState s s
          else if ∃ e ∈ s.intake, e.tag = tag then reply .duplicateTag s s
          else if 8 ≤ s.intake.length then reply .full s s
          else reply .taken s { s with intake := s.intake ++ [⟨.departure tag, .waiting, 0, false⟩] }

/-- R27: WITHDRAW; and what the tag of an entry is, and when an entry is PLACING (R21, R22). -/
def Obligations.WithdrawOutcome : Prop :=
  (∀ e : Entry,
    e.tag = (match e.ask with
      | .arrival u => u.tag
      | .placedArrival tag => tag
      | .departure tag => tag) ∧
    (e.isPlacing = true ↔ ∃ id, e.state = .placing id)) ∧
  ∀ (tag : Tag) (s : State), Received s →
    exec (.withdraw tag) s =
      if s.control.station = .loading ∨ s.control.station = .faulted then reply .unavailable s s
      else
        match s.intake.find? fun e => e.tag == tag with
        | none => reply .unknownTag s s
        | some e =>
          if e.isPlacing then reply .busy s s
          else reply .done s { s with intake := s.intake.eraseP fun x => x.tag == tag }

/-- R34: a wait limit expires where the entry's timer has reached the limit, the mark clear: an entry not PLACING is refused while fewer
than 28 reports are held, any other is marked, its timer at the limit. Before the limit, and without an image, nothing changes (log
entries 2 and 8). -/
def Obligations.WaitLimitOutcome : Prop :=
  (∀ (α : Type) (p : α → Bool) (f : α → α) (l : List α), updateFirst p f l =
    match l.findIdx? p with
    | none => l
    | some i => l.modify i f) ∧
  (∀ (tag : Tag) (s : State), s.image = none → exec (.waitLimitExpiry tag) s = .next s) ∧
  ∀ (tag : Tag) (s : State) (im : Image), s.image = some im →
    let out := fun x : Entry => x.tag == tag && !x.expired && decide (1000 * im.waitLimit ≤ x.timer)
    exec (.waitLimitExpiry tag) s = .next
      (match s.intake.find? out with
      | none => s
      | some e =>
        if e.isPlacing = false ∧ s.reports.length < 28 then
          { s with
            intake := s.intake.eraseP out
            reports := s.reports ++ [.refused tag .waitLimit] }
        else
          { s with
            intake := updateFirst out (fun x => { x with timer := 1000 * im.waitLimit, expired := true }) s.intake })

/-! ### Placement evaluation -/

/-- The lane checks (R39, R42 to R53): the candidate of a lane stands at the lane's U with the contributions of R40 and R41; a
candidate's result is the first check in the order of R42 that it fails, and it passes when it fails none. Two groups are marked where
the matrix row of the one has the other's bit, group 0 never (R48); a lane's effective profile is the one its entry in the active plan
names, or the deck default where that names DEFAULT (R143). The checks are numbered 1 to 11 (R42), the kinds 0 to 4 as a kind set has them (R141, section 11.4). -/
def Obligations.LaneChecks : Prop :=
  ([Check.dimensions, .axle, .power, .room, .order, .apart, .deckMass, .laneState, .profile, .reservation, .shipLimits].map
      Check.number = [1, 2, 3, 4, 5, 6, 7, 8, 9, 10, 11] ∧
    [UnitKind.car, .van, .lorry, .trailer, .coach].map UnitKind.code = [0, 1, 2, 3, 4]) ∧
  ((∀ (im : Image) (lane : Nat) (d : LaneDesc), im.lanes[lane]? = some d → im.lane lane = d) ∧
    (∀ (p : Plan) (lane : Nat) (e : PlanEntry), p.entries[lane]? = some e → p.entry lane = e) ∧
    (∀ (p : PlanStore) (lane : Nat) (ls : LaneState), p.lanes[lane]? = some ls → p.lane lane = ls) ∧
    ∀ (records : List UnitRecord) (lane : Nat), onLane records lane = records.filter fun r => r.lane == lane) ∧
  (∀ (matrix : List Byte) (i j : Nat), marked matrix i j = true ↔
    i ≠ 0 ∧ j ≠ 0 ∧ ∃ row, matrix[i - 1]? = some row ∧ row.getLsbD (j - 1) = true) ∧
  (∀ (im : Image) (p : PlanStore) (lane : Nat), effectiveProfile im p lane =
    match (p.active.entry lane).profile with
    | some n => im.profiles.getD n Profile.none
    | none => im.profiles.getD p.active.dflt Profile.none) ∧
  ∀ (s : State) (im : Image),
    (∀ (unit : UnitId) (lane : Nat),
      let d := im.lane lane
      let U := match (onLane s.units.records lane).getLast? with
        | none => 0
        | some r => r.offset + r.unit.length + im.gap
      candidateFor s im unit lane =
        { unit := unit, lane := lane, offset := U, others := s.units.records, skip := none
          contrib :=
            { m := unit.mass
              t := unit.mass * (2 * d.y)
              l := unit.mass * (2 * (d.xStop : Int) - 2 * (U : Int) - unit.length - 2 * im.xMid)
              v := unit.mass * (2 * d.z + unit.height) } }) ∧
    ∀ c : Candidate,
      (∀ k, reached s im c = some k ↔ ¬ Passes s im c k ∧ ∀ j, j.number < k.number → Passes s im c j) ∧
      (reached s im c = none ↔ ∀ k, Passes s im c k)

/-- The outcome of an arrival: the preferred lane where it passes (R54), else the passing lane of the lowest score, the lowest number
among equals (R55); where none passes, HELD with the highest waiting check reached, numbered 8 and up (R60), or REFUSED with the highest
fixed check, numbered 7 at most (R59). -/
def Obligations.ArrivalOutcome : Prop :=
  ∀ (s : State) (im : Image) (unit : UnitId), 0 < im.laneCount →
    let cs := (List.range im.laneCount).map (candidateFor s im unit)
    match outcomeOf s im unit with
    | .place c =>
      c ∈ cs ∧ reached s im c = none ∧
        (unit.preferred = some c.lane ∨
          (∀ d ∈ cs, reached s im d = none →
            unit.preferred ≠ some d.lane ∧
              (score s im c < score s im d ∨ (score s im c = score s im d ∧ c.lane ≤ d.lane))))
    | .held reason =>
      (∀ d ∈ cs, reached s im d ≠ none) ∧
        ∃ k, (∃ d ∈ cs, reached s im d = some k) ∧ 8 ≤ k.number ∧
          (k, reason) ∈ [(Check.laneState, HoldReason.laneState), (.profile, .profile), (.reservation, .reservation),
            (.shipLimits, .shipLimits)] ∧
          ∀ d ∈ cs, ∀ j, reached s im d = some j → j.number ≤ k.number
    | .refused reason =>
      (∀ d ∈ cs, ∃ j, reached s im d = some j ∧ j.number ≤ 7) ∧
        ∃ k, (∃ d ∈ cs, reached s im d = some k) ∧
          (k, reason) ∈ [(Check.dimensions, RefusedReason.dimensions), (.axle, .axle), (.power, .power), (.room, .room),
            (.order, .order), (.apart, .apart), (.deckMass, .deckMass)] ∧
          ∀ d ∈ cs, ∀ j, reached s im d = some j → j.number ≤ k.number

/-- The score (R55 to R57): the weighted sum of the list, trim, order and fill terms, each formed exactly and rounded down from the
expected view with the candidate and from the candidate's lane; each term is at most 1000, the fill term of a candidate that has passed
C4 at most 999, and so the score lies within 0..60,000 for weights within their range. -/
def Obligations.ScoreRule : Prop :=
  ∀ (s : State) (im : Image) (c : Candidate),
    let p := effectiveProfile im s.plans c.lane
    let d := im.lane c.lane
    let e := expectedView s im c.contrib
    let v := s.view
    ∃ eH eT eO eF : Nat,
      score s im c = p.wH * eH + p.wT * eT + p.wO * eO + p.wF * eF ∧
      (im.tMax = 0 → eH = if e.t = 0 then 0 else 1000) ∧
      (0 < im.tMax → (eH : Int) = min 1000 (|e.t| * 1000 / im.tMax)) ∧
      (v.wMin = v.wMax → eT = if 2 * e.l = v.wMin + v.wMax then 0 else 1000) ∧
      (v.wMin < v.wMax → (eT : Int) = min 1000 (|2 * e.l - (v.wMin + v.wMax)| * 1000 / (v.wMax - v.wMin))) ∧
      (eO = match (onLane c.others c.lane).getLast? with
        | none => 500
        | some r => if r.unit.port = c.unit.port then 0 else 1000) ∧
      (c.offset + c.unit.length ≤ d.len → 20 ≤ c.unit.length →
        eF = (d.len - (c.offset + c.unit.length)) * 1000 / d.len ∧ eF ≤ 999) ∧
      eH ≤ 1000 ∧ eT ≤ 1000 ∧ eO ≤ 1000 ∧ eF ≤ 1000 ∧
      (p.wH ≤ 15 → p.wT ≤ 15 → p.wO ≤ 15 → p.wF ≤ 15 → score s im c ≤ 60000)

/-- The gate (R28), the entry taken (R29), and what the evaluation of an ARRIVAL does to the entry, the unit store, the intent table
and the outbound queue (R30, R58 to R60, R90): the PENDING record at the lane's end, the UNANNOUNCED intent under the next id, its
INTENT notice at the back, the entry PLACING, the lane compared with its threshold and the limit-excess state settled. Where the gate is
closed or the oldest WAITING entry without its mark is no ARRIVAL, or for EVALUATE_DEPARTURE no DEPARTURE of a PARKED record, nothing
changes (R29, log entry 2). -/
def Obligations.EvaluateArrivalOutcome : Prop :=
  (∀ e : Entry, e.takeable = true ↔ e.state = .waiting ∧ e.expired = false) ∧
  (∀ (b : Bus) (n : Notice), b.join n =
    match b.queue with
    | [] => { b with queue := [n], attempts := 0, frontSeq := none }
    | front :: rest => { b with queue := front :: (rest ++ [n]) }) ∧
  (∀ s : State, (gateOpen s = false ∨
      ∀ u, (s.intake.find? fun e => e.state == .waiting && !e.expired).map Entry.ask ≠ some (.arrival u)) →
    exec .evaluateArrival s = .next s) ∧
  (∀ s : State, (gateOpen s = false ∨ ∀ tag r,
      (s.intake.find? fun e => e.state == .waiting && !e.expired).map Entry.ask = some (.departure tag) →
      s.units.find tag = some r → r.state ≠ .parked) →
    exec .evaluateDeparture s = .next s) ∧
  ∀ (s : State) (im : Image) (u : UnitId), s.image = some im →
    (gateOpen s = true ↔ s.control.station = .joined ∧ (∀ it ∈ s.intents.open_, it.state ≠ .unannounced) ∧
      s.intents.open_.length < 4 ∧ s.reports.length < 28 ∧ (∀ p ∈ s.peers.peers, p.lock ≠ .doubtful) ∧
      (im.subst = .freeze → ∀ p ∈ s.peers.peers, p.lock ≠ .lost ∧ p.lock ≠ .unheard)) ∧
    (gateOpen s = true →
      (s.intake.find? fun e => e.state == .waiting && !e.expired).map Entry.ask = some (.arrival u) →
      exec .evaluateArrival s = .next
        (match outcomeOf s im u with
        | .place c =>
          let id := s.intents.nextId
          let t := compareNearFull im c.lane
            { s with units := { s.units with records := s.units.records ++ [⟨c.unit, c.lane, c.offset, c.contrib, .pending⟩] } }
          settle
            { t with
              intents := { open_ := s.intents.open_ ++ [⟨id, .place, u.tag, c.contrib, .unannounced⟩], counter := id }
              bus := s.bus.join (.intent ⟨id, .place, c.contrib⟩)
              intake := updateFirst Entry.takeable
                (fun e => { e with ask := .placedArrival u.tag, state := .placing id }) s.intake }
        | .held reason =>
          { s with intake := updateFirst Entry.takeable (fun e => { e with state := .held reason }) s.intake }
        | .refused reason =>
          { s with
            intake := s.intake.eraseP Entry.takeable
            reports := s.reports ++ [.refused u.tag reason] }))

/-- The evaluation of a DEPARTURE (R31, R61 to R63): D2, D3 and D4 in order, and what opening the departure does. -/
def Obligations.EvaluateDepartureOutcome : Prop :=
  ∀ (s : State) (im : Image) (tag : Tag) (r : UnitRecord), s.image = some im → gateOpen s = true →
    (s.intake.find? fun e => e.state == .waiting && !e.expired).map Entry.ask = some (.departure tag) →
    s.units.find tag = some r → r.state = .parked →
    exec .evaluateDeparture s = .next
      (let lane := onLane s.units.records r.lane
      let exit := match (im.lane r.lane).order with
        | .through => lane.head?
        | .blind => lane.getLast?
      if exit.map (fun x : UnitRecord => x.unit.tag) ≠ some tag then
        { s with
          intake := s.intake.eraseP Entry.takeable
          reports := s.reports ++ [.refused tag .notAtExit] }
      else if (s.plans.lane r.lane).blocked then
        { s with intake := updateFirst Entry.takeable (fun e => { e with state := .held .laneState }) s.intake }
      else if limitCheck s im none r.contrib.neg = false then
        { s with intake := updateFirst Entry.takeable (fun e => { e with state := .held .shipLimits }) s.intake }
      else
        let id := s.intents.nextId
        settle
          { s with
            units := { s.units with
              records := s.units.records.map fun x => if x.unit.tag == tag then { x with state := .leaving } else x }
            intents :=
              { open_ := s.intents.open_ ++ [⟨id, .remove, tag, r.contrib.neg, .unannounced⟩], counter := id }
            bus := s.bus.join (.intent ⟨id, .remove, r.contrib.neg⟩)
            intake := updateFirst Entry.takeable (fun e => { e with state := .placing id }) s.intake })

/-- The pre-send re-check (R64 to R66): it fails while a peer is DOUBTFUL, or under FREEZE while one is LOST or UNHEARD; else it asks
C1 to C11 of a PLACE intent's own record against the deck without it, and D2, D3 and D4 of a REMOVE intent's record. -/
def Obligations.RecheckRule : Prop :=
  ∀ (s : State) (im : Image) (it : Intent) (r : UnitRecord), s.units.find it.tag = some r →
    (recheck s im it = true ↔
      (∀ p ∈ s.peers.peers, p.lock ≠ .doubtful) ∧
      (im.subst = .freeze → ∀ p ∈ s.peers.peers, p.lock ≠ .lost ∧ p.lock ≠ .unheard) ∧
      match it.dir with
      | .place => ∀ k, Passes s im
          { unit := r.unit, lane := r.lane, offset := r.offset, contrib := r.contrib
            others := s.units.records.filter (fun x => x.unit.tag != r.unit.tag), skip := some it.id } k
      | .remove =>
        (match (im.lane r.lane).order with
        | .through => (onLane s.units.records r.lane).head?
        | .blind => (onLane s.units.records r.lane).getLast?).map (fun x : UnitRecord => x.unit.tag) = some r.unit.tag ∧
        (s.plans.lane r.lane).blocked = false ∧ limitCheck s im (some it.id) it.delta = true)

/-! ### The ship view -/

/-- What the views sum, per quantity: the own deck sums, the own open intents as intervals or, in the expected view, in full, a
candidate's deltas, and each peer by its record or, under BOUND while it is LOST or UNHEARD, by its bounds or their midpoint truncated
toward zero (R73, R74, R79, R138); the four figures of R80; R76 and R77: what the limit check compares, side by side; and while no side
is positive without the candidate, it passes exactly when none is positive with it. -/
def Obligations.LimitCheckRule : Prop :=
  ∀ (s : State) (im : Image) (skip : Option IntentId) (cand : Quad),
    (∀ q ∈ [Quad.m, Quad.t, Quad.l, Quad.v],
      let byBounds := fun p : Peer => im.subst = .bound ∧ (p.lock = .lost ∨ p.lock = .unheard)
      let bounds := fun p : Peer => im.bounds.getD p.number.val ⟨⟨0, 0, 0, 0⟩, ⟨0, 0, 0, 0⟩⟩
      let own := (s.intents.open_.filter fun it => some it.id != skip).map fun it => q it.delta
      let recorded := fun p : Peer => p.recorded.map fun e => q e.delta
      q (viewLow s im skip cand) = q s.units.sums + (own.map (min 0)).sum + q cand +
        (s.peers.peers.map fun p =>
          if byBounds p then q (bounds p).lo else q p.sums + ((recorded p).map (min 0)).sum).sum ∧
      q (viewHigh s im skip cand) = q s.units.sums + (own.map (max 0)).sum + q cand +
        (s.peers.peers.map fun p =>
          if byBounds p then q (bounds p).hi else q p.sums + ((recorded p).map (max 0)).sum).sum ∧
      q (expectedView s im cand) = q s.units.sums + (s.intents.open_.map fun it => q it.delta).sum + q cand +
        (s.peers.peers.map fun p =>
          if byBounds p then (q (bounds p).lo + q (bounds p).hi).tdiv 2 else q p.sums + (recorded p).sum).sum) ∧
    (let e := expectedView s im ⟨0, 0, 0, 0⟩
    let w := s.view
    let sign := fun x : Int => if x = 0 then 0 else if 0 < x then 1000 else -1000
    let nearest := fun n d x : Int =>
      if 0 ≤ n then d * (2 * x - 1) ≤ 2 * n ∧ 2 * n < d * (2 * x + 1) else d * (2 * x - 1) < 2 * n ∧ 2 * n ≤ d * (2 * x + 1)
    (im.tMax = 0 → listFigure s im = sign e.t) ∧
    (0 < im.tMax → ∃ x, nearest (e.t * 1000) im.tMax x ∧ listFigure s im = max (-1000) (min 1000 x)) ∧
    (w.wMin = w.wMax → trimFigure s im = sign (2 * e.l - (w.wMin + w.wMax))) ∧
    (w.wMin < w.wMax → ∃ x, nearest ((2 * e.l - (w.wMin + w.wMax)) * 1000) (w.wMax - w.wMin) x ∧
      trimFigure s im = max (-1000) (min 1000 x)) ∧
    (0 < im.mMax → ∃ x, nearest (e.m * 1000) im.mMax x ∧ massFigure s im = max 0 (min 1000 x)) ∧
    (0 < im.vMax → ∃ x, nearest (e.v * 1000) im.vMax x ∧ verticalFigure s im = max 0 (min 1000 x))) ∧
    let lo := viewLow s im skip Quad.zero
    let hi := viewHigh s im skip Quad.zero
    (limitCheck s im skip cand = true ↔
      max 0 (hi.m + cand.m - im.mMax) ≤ max 0 (hi.m - im.mMax) ∧
      max 0 (hi.t + cand.t - im.tMax) ≤ max 0 (hi.t - im.tMax) ∧
      max 0 (-im.tMax - (lo.t + cand.t)) ≤ max 0 (-im.tMax - lo.t) ∧
      max 0 (hi.l + cand.l - s.view.wMax) ≤ max 0 (hi.l - s.view.wMax) ∧
      max 0 (s.view.wMin - (lo.l + cand.l)) ≤ max 0 (s.view.wMin - lo.l) ∧
      max 0 (hi.v + cand.v - im.vMax) ≤ max 0 (hi.v - im.vMax)) ∧
    ((excessOf im s.view lo hi).any = false →
      (limitCheck s im skip cand = true ↔
        (excessOf im s.view (viewLow s im skip cand) (viewHigh s im skip cand)).any = false))

/-- R78: an evaluation leaves every excess of the view without a candidate where it was, or smaller, and so never sets the
limit-excess state TRUE. -/
def Obligations.EvaluationNeverRaisesExcess : Prop :=
  (∀ e f : Excess, e.noneGrows f = true ↔ e.mHigh ≤ f.mHigh ∧ e.tHigh ≤ f.tHigh ∧ e.tLow ≤ f.tLow ∧ e.lHigh ≤ f.lHigh ∧
    e.lLow ≤ f.lLow ∧ e.vHigh ≤ f.vHigh) ∧
  ∀ (s t : State) (im : Image), s.image = some im →
    exec .evaluateArrival s = .next t ∨ exec .evaluateDeparture s = .next t →
    (excessNow t im).noneGrows (excessNow s im) = true ∧
    (ExcessAgrees s → s.view.limitExcess = false → t.view.limitExcess = false)

/-- The six excesses of the view without a candidate (R76), whether a side is positive, and the sides that LIMIT EXCESS carries, bit 0
M high to bit 5 V high (section 11.3); the limit-excess state settled (R82, R83): TRUE exactly when a side is positive, with LIMIT EXCESS
or EXCESS CLEARED posted when it changes; the admission of a report (R168); the release of held entries (R33); and the two output lines:
ALARM asserted by limit excess, FAULTED or QUIET and driven as the image sets it, open-drain active-low without an image (R84), ATTN
asserted while a report is held and driven push-pull, active-high (R168). -/
def Obligations.SettleAdmitRelease : Prop :=
  (∀ (im : Image) (w : ShipView) (lo hi : Quad), excessOf im w lo hi =
    { mHigh := max 0 (hi.m - im.mMax), tHigh := max 0 (hi.t - im.tMax), tLow := max 0 (-im.tMax - lo.t)
      lHigh := max 0 (hi.l - w.wMax), lLow := max 0 (w.wMin - lo.l), vHigh := max 0 (hi.v - im.vMax) }) ∧
  (∀ (s : State) (im : Image), excessNow s im =
    excessOf im s.view (viewLow s im none ⟨0, 0, 0, 0⟩) (viewHigh s im none ⟨0, 0, 0, 0⟩)) ∧
  (∀ e : Excess,
    (e.any = true ↔ 0 < e.mHigh ∨ 0 < e.tHigh ∨ 0 < e.tLow ∨ 0 < e.lHigh ∨ 0 < e.lLow ∨ 0 < e.vHigh) ∧
    (List.range 8).map e.sides.getLsbD = [decide (0 < e.mHigh), decide (0 < e.tHigh), decide (0 < e.tLow), decide (0 < e.lHigh),
      decide (0 < e.lLow), decide (0 < e.vHigh), false, false]) ∧
  (∀ s : State, s.image = none → settle s = s) ∧
  (∀ s : State, releaseHeld s = { s with intake := s.intake.map Entry.release }) ∧
  (∀ (r : Report) (s : State), post r s = { s with reports := admitted r s.reports }) ∧
  (∀ (s : State) (im : Image), s.image = some im → let e := excessNow s im
    settle s =
      if e.any = s.view.limitExcess then s
      else if e.any then
        { s with view := { s.view with limitExcess := true }, reports := admitted (.limitExcess e.sides) s.reports }
      else { s with view := { s.view with limitExcess := false }, reports := admitted .excessCleared s.reports }) ∧
  (∀ (r : Report) (q : List Report), admitted r q =
    match r with
    | .placed _ _ _ _ _ => q ++ [r]
    | .departureCleared _ _ => q ++ [r]
    | .refused _ _ => q ++ [r]
    | _ => if q.length < 24 then q ++ [r] else q) ∧
  (∀ e : Entry,
    (∀ reason, e.state = .held reason → e.release = { e with state := .waiting }) ∧
    ((∀ reason, e.state ≠ .held reason) → e.release = e)) ∧
  ∀ s : State,
    (alarm s = true ↔ s.view.limitExcess = true ∨ s.control.station = .faulted ∨ s.control.station = .quiet) ∧
    (attn s = true ↔ s.reports ≠ []) ∧ attnDrive s = (if s.reports = [] then .low else .high) ∧
    alarmDrive s =
      match s.image with
      | none => if alarm s then .low else .released
      | some im =>
        match im.openDrain, im.activeHigh, alarm s with
        | _, true, false => .low
        | _, false, true => .low
        | true, true, true => .released
        | true, false, false => .released
        | false, true, true => .high
        | false, false, false => .high

/-! ### Intents -/

/-- REPORT PARKED, ABANDONED, DEPARTED and STAYED: the checks of R95 in order, and what a closure taken does: the record and the deck
sums, the intent freed, the SETTLE or RETRACT handed on (R96 to R99, R102), then what a freed intent hands on (R101). And what these are:
a record removed leaves its lane, and the deck sums where it counts, its lane compared with its threshold (R16, R18); a closure notice
reaches the bus controller only while the station is JOINED (R102); a freed intent's lane takes its pending entry, then the held entries
are released, then the limit-excess state is settled (R101). -/
def Obligations.ClosureOutcome : Prop :=
  ((∀ a b : Quad, a.add b = ⟨a.m + b.m, a.t + b.t, a.l + b.l, a.v + b.v⟩ ∧ a.neg = ⟨-a.m, -a.t, -a.l, -a.v⟩) ∧
    (∀ (u : UnitStore) (tag : Tag), u.find tag = u.records.find? fun r => r.unit.tag == tag) ∧
    ∀ (t : IntentTable) (tag : Tag), t.ofTag tag = t.open_.find? fun it => it.tag == tag) ∧
  (∀ (im : Image) (r : UnitRecord) (s : State), s.units.find r.unit.tag = some r →
    removeRecord im r s = compareNearFull im r.lane
      { s with
        units := { s.units with
          records := s.units.records.filter fun x => x.unit.tag != r.unit.tag
          sums := if r.state = .pending then s.units.sums else s.units.sums.add r.contrib.neg } }) ∧
  (∀ (n : Notice) (s : State),
    handOn n s = if s.control.station = .joined then { s with bus := s.bus.handOnClosure n } else s) ∧
  (∀ (im : Image) (lane : Nat) (s : State), let t := applyPending im lane s
    freed im lane s = settle { t with intake := t.intake.map Entry.release }) ∧
  ∀ (tag : Tag) (s : State), Received s →
    exec (.reportParked tag) s = closureOutcome s tag .pending (fun im r it =>
      freed im r.lane (handOn (.settle it.id)
        { s with
          units := { s.units with
            records := s.units.records.map fun x => if x.unit.tag == r.unit.tag then { x with state := .parked } else x
            sums := s.units.sums.add r.contrib }
          intents := { s.intents with open_ := s.intents.open_.filter fun x => x.id != it.id } })) ∧
    exec (.reportAbandoned tag) s = closureOutcome s tag .pending (fun im r it =>
      freed im r.lane (handOn (.retract it.id)
        { removeRecord im r s with
          intents := { s.intents with open_ := s.intents.open_.filter fun x => x.id != it.id } })) ∧
    exec (.reportDeparted tag) s = closureOutcome s tag .leaving (fun im r it =>
      freed im r.lane (handOn (.settle it.id)
        { removeRecord im r s with
          intents := { s.intents with open_ := s.intents.open_.filter fun x => x.id != it.id } })) ∧
    exec (.reportStayed tag) s = closureOutcome s tag .leaving (fun im r it =>
      freed im r.lane (handOn (.retract it.id)
        { s with
          units := { s.units with records := s.units.records.map fun x =>
            if x.unit.tag = r.unit.tag ∧ x.state = .leaving then { x with state := .parked } else x }
          intents := { s.intents with open_ := s.intents.open_.filter fun x => x.id != it.id } }))

/-- REPORT DEPARTED with the force flag set, by the record's state (R100): a PARKED record is removed, a waiting DEPARTURE entry that
names it too, a SUMMARY asked for while JOINED, held entries released and the limit-excess state settled; an UNANNOUNCED intent is
cancelled first and then hands on what R101 gives (log entry 12). -/
def Obligations.ForcedDepartureOutcome : Prop :=
  ∀ (tag : Tag) (s : State), Received s →
    let out := fun (im : Image) (r : UnitRecord) (t : State) =>
      let u := removeRecord im r t
      { u with
        intake := u.intake.eraseP fun e => e.ask == .departure r.unit.tag && !e.isPlacing
        bus := if s.control.station = .joined then u.bus.askSummaryForced else u.bus }
    exec (.forcedDeparture tag) s =
      match s.image with
      | none => reply .unavailable s s
      | some im =>
        if s.control.station = .loading ∨ s.control.station = .faulted then reply .unavailable s s
        else
          match s.units.find tag with
          | none => reply .unknownTag s s
          | some r =>
            match r.state, s.intents.ofTag r.unit.tag with
            | .pending, _ => reply .wrongState s s
            | .parked, _ => reply .done s (settle (releaseHeld (out im r s)))
            | .leaving, none => reply .wrongState s s
            | .leaving, some it =>
              if it.state = .unannounced then reply .done s (freed im r.lane (out im r (cancelSteps im it s)))
              else reply .done s (freed im r.lane (handOn (.settle it.id)
                { removeRecord im r s with
                  intents := { s.intents with open_ := s.intents.open_.filter fun x => x.id != it.id } }))

/-- The steps of R91: a cancellation takes the intent out of the table and its INTENT notice out of the queue, removes a PLACE
intent's record, its lane's free length then compared with the threshold (R16, R153), and returns a REMOVE intent's record to PARKED,
returns its entry to WAITING, an arrival's unit record held again (R32), and leaves the other entries, the id counter, the sequence
counter and, for a PENDING record, the deck sums as they were. Where its notice was the front, the attempt is given up, and the attempt
count is 0 and no sequence number assigned (R110, R113, R115); nothing else of the bus controller changes, and no other block. A
cancellation by a failed re-check or at QUIET then hands on what R101 gives for the lane of its record, and last the oldest marked entry
is refused where fewer than 28 reports are held (R35; its place after the reports of R101 is the model's choice, log entry 11). -/
def Obligations.CancellationSteps : Prop :=
  (∀ (n : Notice) (id : IntentId), n.isIntentOf id = true ↔ ∃ e, n = .intent e ∧ e.id = id) ∧
  ∀ (s : State) (im : Image) (it : Intent), let t := cancelSteps im it s
    t = { s with intents := t.intents, bus := t.bus, units := t.units, intake := t.intake, plans := t.plans, reports := t.reports } ∧
    t.intents = { s.intents with open_ := s.intents.open_.filter fun x => x.id != it.id } ∧
    (let others := s.bus.queue.filter fun n => !n.isIntentOf it.id
    t.bus =
      if ∃ front, s.bus.queue.head? = some front ∧ front.isIntentOf it.id = true then
        { s.bus with queue := others, attempts := 0, frontSeq := none, sending := none }
      else { s.bus with queue := others }) ∧
    t.units.lowered = s.units.lowered ∧
    (it.dir = .place → t.units.records = s.units.records.filter fun r => r.unit.tag != it.tag) ∧
    (it.dir = .place → (∀ r ∈ s.units.records, r.unit.tag = it.tag → r.state = .pending) → t.units.sums = s.units.sums) ∧
    (it.dir = .place → ∀ r, s.units.find it.tag = some r →
      let before := (s.plans.lane r.lane).reported
      let free := freeLength im t.units.records r.lane
      let below := decide (free < threshold im s.plans r.lane)
      t.plans = { s.plans with lanes :=
        if before = below then s.plans.lanes else s.plans.lanes.modify r.lane fun ls => { ls with reported := below } } ∧
      t.reports = if before = false ∧ below = true then admitted (.laneNearFull r.lane free) s.reports else s.reports) ∧
    (it.dir = .place → s.units.find it.tag = none → t.plans = s.plans ∧ t.reports = s.reports) ∧
    (it.dir = .remove → t.units.sums = s.units.sums ∧ t.plans = s.plans ∧ t.reports = s.reports ∧
      t.units.records = s.units.records.map fun r =>
        if r.unit.tag = it.tag ∧ r.state = .leaving then { r with state := .parked } else r) ∧
    (t.intake = match s.intake.findIdx? (fun x => x.state == .placing it.id) with
      | none => s.intake
      | some i => s.intake.modify i fun e =>
        { e with
          state := .waiting
          ask := match e.ask, it.dir, s.units.find it.tag with
            | .placedArrival _, .place, some r => .arrival r.unit
            | ask, _, _ => ask }) ∧
    let u := freed im (match s.units.find it.tag with
      | none => 0
      | some r => r.lane) t
    cancelIntent im it s =
      match if u.reports.length < 28 then u.intake.find? (fun e => e.expired && !e.isPlacing) else none with
      | none => u
      | some e =>
        { u with
          intake := u.intake.eraseP fun x => x.expired && !x.isPlacing
          reports := u.reports ++ [.refused e.tag .waitLimit] }

/-- LIFETIME_EXPIRY of an ANNOUNCED intent whose timer has reached the lifetime makes it OVERDUE and posts OVERDUE (R94);
HEARTBEAT_EXPIRY, the timer at H, asks for a SUMMARY and starts the timer again from 0 (R119). Before its limit a timer's expiry changes
nothing, nor does that of a timer that does not run (log entries 2 and 8). -/
def Obligations.LifetimeAndHeartbeat : Prop :=
  (∀ (id : IntentId) (s : State), s.image = none ∨ s.intents.open_.find? (fun x => x.id == id) = none ∨
      (∃ it, s.intents.open_.find? (fun x => x.id == id) = some it ∧ ∀ ms : Nat, it.state ≠ .announced ms) →
    exec (.lifetimeExpiry id) s = .next s) ∧
  (∀ s : State, s.image = none ∨ s.bus.heartbeat = none → exec .heartbeatExpiry s = .next s) ∧
  (∀ (id : IntentId) (s : State) (im : Image) (it : Intent) (ms : Nat), s.image = some im →
    s.intents.open_.find? (fun x => x.id == id) = some it → it.state = .announced ms →
    exec (.lifetimeExpiry id) s = .next
      (if ms < 1000 * im.lifetime then s
      else
        { s with
          intents := { s.intents with
            open_ := updateFirst (fun x => x.id == id) (fun x => { x with state := .overdue }) s.intents.open_ }
          reports := if s.reports.length < 24 then s.reports ++ [.overdue it.tag id] else s.reports })) ∧
  ∀ (s : State) (im : Image) (ms : Nat), s.image = some im → s.bus.heartbeat = some ms →
    exec .heartbeatExpiry s = .next
      (if ms < im.heartbeat then s else { s with bus := { s.bus.askSummary with heartbeat := some 0 } })

/-- R89: the next intent's id is the first from one above the counter, 15 counting up to 0, that no open intent holds. -/
def Obligations.NextIntentIdFree : Prop :=
  ∀ t : IntentTable, t.open_.length < 16 →
    (∀ it ∈ t.open_, it.id ≠ t.nextId) ∧
    ∃ k : Nat, k < 16 ∧ t.nextId.val = (t.counter.val + 1 + k) % 16 ∧
      ∀ j < k, ∃ it ∈ t.open_, it.id.val = (t.counter.val + 1 + j) % 16

/-! ### The stowage bus -/

/-- ATTEMPT_START (R111, R112): where the line is idle and has been for the front notice's waiting time, an INTENT is checked again and
cancelled where it fails (R64, R113); else the attempt is made under the notice's number with the contents of R114 (R107, R115), a
SUMMARY listing the announced own intents, each once, in ascending id. On a line not idle, or idle for less, nothing changes; no attempt
is made, and nothing changes, where the station is not JOINED (in QUIET, R121) or is held in reset, where no notice waits, or while an
attempt is in progress. That the operand says how long the line has been idle is the model's choice of log entry 9; that an INTENT whose intent is not open leaves the
queue is that of log entry 18. -/
def Obligations.AttemptStartOutcome : Prop :=
  (∀ (idleBits : Nat) (s : State),
    s.control.held = true ∨ s.control.station ≠ .joined ∨ s.image = none ∨ s.bus.queue = [] ∨ s.bus.sending ≠ none →
    exec (.attemptStart idleBits) s = .next s) ∧
  (∀ (idleBits : Nat) (s : State) (im : Image) (n : Notice) (rest : List Notice),
    s.image = some im → s.bus.queue = n :: rest → s.control.held = false → s.control.station = .joined →
    s.bus.sending = none →
    let wait := if s.bus.attempts = 0 then 16 else (im.stationNo.val + 1) * 16 + min (s.bus.attempts - 1) 7 * 128
    let seq := s.bus.frontSeq.getD s.bus.counter
    let begun := fun body : FrameBody =>
      { s with bus := { s.bus with
          frontSeq := some seq, sending := some (Frame.bytes ⟨im.stationNo, seq, body⟩), line := .running } }
    exec (.attemptStart idleBits) s = .next
      (if s.bus.line ≠ .idle ∨ idleBits < wait then s
      else
        match n with
        | .summary => begun (.summary s.units.sums (s.units.records.filter fun r => r.state != .pending).length
            (summaryList s.intents))
        | .settle id => begun (.settle id s.units.sums)
        | .retract id => begun (.retract id)
        | .intent e =>
          match s.intents.find e.id with
          | none => { s with bus := { s.bus with
              queue := rest.filter (fun x => !x.isIntentOf e.id), attempts := 0, frontSeq := none } }
          | some it => if recheck s im it then begun (.intent e) else cancelIntent im it s)) ∧
  ∀ t : IntentTable,
    (summaryList t).Pairwise (fun a b => a.id < b.id) ∧
    ((t.open_.map Intent.id).Nodup → ∀ e : IntentEntry,
      e ∈ summaryList t ↔ ∃ it ∈ t.open_, it.state ≠ .unannounced ∧ e = ⟨it.id, it.dir, it.delta⟩)

/-- COLLISION (R110, R111, R117), INVALID_FRAME (R108), LINE_IDLE (R106, R122), and the levels on the line (R106): a station drives it in
its own attempt only, a byte as a dominant start bit, eight bits most significant first, a 1 recessive, and a recessive stop bit; the
line is idle after 16 recessive bit times, and an attempt collides at the first bit where the line, dominant whenever any station
drives it so, is not as sent. With no attempt in progress COLLISION changes nothing, nor does LINE_IDLE during one (log entry 2). Which states the
idle detector has is the model's choice of log entry 9. -/
def Obligations.LineEvents : Prop :=
  (∀ s : State,
    (s.bus.sending.isSome = true → exec .collision s = .next
      { s with bus := { s.bus with
          sending := none
          attempts := min 255 (s.bus.attempts + 1)
          refresh := if s.bus.queue.head? = some .summary then false else s.bus.refresh } }) ∧
    (s.bus.sending = none → exec .collision s = .next s) ∧
    (s.control.held = true ∨ s.bus.sending.isSome = true → exec .lineIdle s = .next s) ∧
    (∀ bytes : List RxByte, s.control.held = false → frameOfBytes bytes = none →
      exec (.invalidFrame bytes) s = .next
        (match s.bus.line with
        | .unsynced => s
        | .idle => { s with bus := { s.bus with line := .judged } }
        | .running => { s with bus := { s.bus with line := .judged } }
        | .judged => s)) ∧
    (s.control.held = false → s.bus.sending = none →
      exec .lineIdle s = .next { s with bus := { s.bus with line := .idle } }) ∧
    (s.bus.sending = none → ∀ bit : Nat, drives s bit = .recessive) ∧
    ∀ bytes : List Byte, s.bus.sending = some bytes →
      (∀ bit : Nat, 10 * bytes.length ≤ bit → drives s bit = .recessive) ∧
      ∀ i : Nat, ∀ h : i < bytes.length, drives s (10 * i) = .dominant ∧ drives s (10 * i + 9) = .recessive ∧
        ∀ k < 8, drives s (10 * i + 1 + k) = if bytes[i].getLsbD (7 - k) then .recessive else .dominant) ∧
  (∀ a b : List Level, together a b = List.zipWith Level.over a b) ∧
  (∀ a b : Level, a.over b = .dominant ↔ a = .dominant ∨ b = .dominant) ∧
  (∀ line : List Level, lineIsIdle line = true ↔ ∃ before, line = before ++ List.replicate 16 .recessive) ∧
  ∀ (same a b : List Level),
    firstDifference (same ++ .recessive :: a) (together (same ++ .recessive :: a) (same ++ .dominant :: b)) = some same.length ∧
    ∀ sent : List Level, firstDifference sent (together sent (List.replicate sent.length .recessive)) = none

/-- ATTEMPT_COMPLETE (R116): the notice leaves, the counter rises, the next becomes the front; a completed INTENT announces its intent
(R92, R93), a completed SUMMARY with its refresh mark set queues a fresh one (R117). The line standing at `judged` until LINE_IDLE is the
model's choice of log entry 9; that an INTENT whose intent is not open, or is announced already, announces nothing is the model's too
(log entry 18). With no attempt in progress nothing changes (log entry 2). -/
def Obligations.AttemptCompleteOutcome : Prop :=
  (∀ s : State, s.image = none ∨ s.bus.queue = [] ∨ s.bus.sending = none → exec .attemptComplete s = .next s) ∧
  (∀ (t : IntentTable) (id : IntentId), t.find id = t.open_.find? fun it => it.id == id) ∧
  ∀ (s : State) (im : Image) (n : Notice) (rest : List Notice),
    s.image = some im → s.bus.queue = n :: rest → s.bus.sending.isSome = true →
    let b := { s.bus with
      queue := rest, attempts := 0, frontSeq := none, refresh := false, sending := none, counter := s.bus.counter + 1
      line := .judged }
    exec .attemptComplete s = .next
      (match n with
      | .summary => { s with bus := if s.bus.refresh then { b with queue := rest ++ [.summary] } else b }
      | .settle _ => { s with bus := b }
      | .retract _ => { s with bus := b }
      | .intent e =>
        match s.intents.find e.id with
        | none => { s with bus := b }
        | some it =>
          if it.state = .unannounced then
            { s with
              bus := b
              intents := { s.intents with
                open_ := updateFirst (fun x => x.id == it.id) (fun x => { x with state := .announced 0 }) s.intents.open_ }
              intake := s.intake.eraseP fun x => x.state == .placing it.id
              reports := s.reports ++
                [match it.dir with
                | .place => .placed it.tag (((s.units.find it.tag).map UnitRecord.lane).getD 0) (((s.units.find it.tag).map UnitRecord.offset).getD 0)
                    it.id (listFigure s im)
                | .remove => .departureCleared it.tag it.id] }
          else { s with bus := b })

/-- A SUMMARY stands for closures (R117). Asked for while one is queued it joins nothing; queued where none is, it takes the place of
the oldest closure notice not in an attempt, every such notice removed, or joins at the back, its refresh mark clear; where it takes the
place of the front notice or joins an empty queue, the attempt count and the sequence number are new (R110, R115). A closure handed on,
or a SUMMARY asked for by a forced departure, while one is queued is absorbed, and sets the refresh mark where that SUMMARY is in an
attempt; otherwise a closure joins at the back. -/
def Obligations.SummaryStandsForClosures : Prop :=
  (∀ n : Notice, n.isClosure = true ↔ ∃ id, n = .settle id ∨ n = .retract id) ∧
  ∀ b : Bus,
    let absorbed := { b with refresh := b.refresh || (b.sending.isSome && b.queue.head? == some .summary) }
    let joined := fun n : Notice =>
      match b.queue with
      | [] => { b with queue := [n], attempts := 0, frontSeq := none }
      | front :: rest => { b with queue := front :: (rest ++ [n]) }
    let standsFor := fun q : List Notice =>
      if ∃ n ∈ q, n.isClosure = true then
        (q.takeWhile fun n => !n.isClosure) ++ .summary :: ((q.dropWhile fun n => !n.isClosure).filter fun n => !n.isClosure)
      else q ++ [.summary]
    let queued :=
      match b.queue with
      | [] => { b with queue := [.summary], attempts := 0, frontSeq := none, refresh := false }
      | front :: rest =>
        if b.sending.isSome then { b with queue := front :: standsFor rest, refresh := false }
        else if front.isClosure then
          { b with
            queue := .summary :: rest.filter (fun n => !n.isClosure), attempts := 0, frontSeq := none, refresh := false }
        else { b with queue := front :: standsFor rest, refresh := false }
    (Notice.summary ∈ b.queue →
      b.askSummary = b ∧ b.askSummaryForced = absorbed ∧ ∀ n : Notice, b.handOnClosure n = absorbed) ∧
    (Notice.summary ∉ b.queue →
      b.askSummary = queued ∧ b.askSummaryForced = queued ∧ ∀ n : Notice, b.handOnClosure n = joined n)

/-- Decoding a frame gives it back: for every frame whose contents pass the checks of R181, the bytes of section 11.1 with its check,
received with every stop bit recessive, are read as that frame, whatever bytes follow before the line is idle, and nothing else is read as one; and so are the bytes that
a receiver samples from the levels of that frame on the line (R106, R107, R108). What those bytes are, field by field, the check register
preset to all ones and taking each byte most significant bit first (R107, section 11.1); which contents pass the checks (R17, R181); and
the levels that carry bytes (R106). -/
def Obligations.FrameRoundTrip : Prop :=
  (∀ f : Frame,
    let one := fun n : Nat => BitVec.ofNat 8 n
    let sums := fun q : Quad => beInt 4 q.m ++ beInt 4 q.t ++ beInt 4 q.l ++ beInt 4 q.v
    let entry := fun e : IntentEntry =>
      [match e.dir with
        | .place => one e.id.val
        | .remove => one (e.id.val + 16)] ++ beInt 2 e.delta.m ++ beInt 4 e.delta.t ++ beInt 4 e.delta.l ++ beInt 4 e.delta.v
    let kind := match f.body with
      | .intent _ => 1
      | .settle _ _ => 2
      | .retract _ => 3
      | .summary _ _ _ => 4
    let body : List Byte := match f.body with
      | .intent e => entry e
      | .settle id q => [one id.val] ++ sums q
      | .retract id => [one id.val]
      | .summary q parked es => sums q ++ beBytes 2 parked ++ [one es.length] ++ (es.map entry).flatten
    let checked := [one (16 * kind + f.station.val), f.seq, one body.length] ++ body
    let check := (checked.flatMap fun b => (List.range 8).map fun k => b.getLsbD (7 - k)).foldl
      (fun (reg : BitVec 16) bit => if reg.msb = bit then reg <<< 1 else (reg <<< 1) ^^^ 0x1021) 0xFFFF
    f.bytes = checked ++ beBytes 2 check.toNat) ∧
  (∀ b : FrameBody,
    let sums := fun q : Quad => 0 ≤ q.m ∧ q.m ≤ 307200 ∧ -122880000 ≤ q.t ∧ q.t ≤ 122880000 ∧
      -1536000000 ≤ q.l ∧ q.l ≤ 1536000000 ∧ 0 ≤ q.v ∧ q.v ≤ 261120000
    let entry := fun e : IntentEntry => -240000 ≤ e.delta.t ∧ e.delta.t ≤ 240000 ∧ -3000000 ≤ e.delta.l ∧ e.delta.l ≤ 3000000 ∧
      match e.dir with
      | .place => 5 ≤ e.delta.m ∧ e.delta.m ≤ 600 ∧ 0 ≤ e.delta.v ∧ e.delta.v ≤ 510000
      | .remove => -600 ≤ e.delta.m ∧ e.delta.m ≤ -5 ∧ -510000 ≤ e.delta.v ∧ e.delta.v ≤ 0
    b.valid = true ↔
      match b with
      | .intent e => entry e
      | .settle _ q => sums q
      | .retract _ => True
      | .summary q parked es => sums q ∧ parked ≤ 512 ∧ es.length ≤ 4 ∧ es.Pairwise (fun a c => a.id < c.id) ∧ ∀ e ∈ es, entry e) ∧
  (∀ bytes : List Byte, frameLevels bytes = bytes.flatMap fun b =>
    [Level.dominant] ++ ((List.range 8).map fun k => if b.getLsbD (7 - k) then Level.recessive else .dominant) ++ [.recessive]) ∧
  (∀ (rx : List RxByte) (f : Frame), frameOfBytes rx = some f →
    f.body.valid = true ∧ ∃ after, rx = f.bytes.map (fun b => ⟨b, true⟩) ++ after) ∧
  ∀ (f : Frame) (after : List RxByte), f.body.valid = true →
    frameOfBytes (f.bytes.map (fun b => ⟨b, true⟩) ++ after) = some f ∧
    ∀ levels : List Level, frameOfBytes (sampled f.bytes.length (frameLevels f.bytes ++ levels)) = some f

/-- Decoding a request gives it back: the bytes of a well-formed terminal request (section 11.2) are read as that request, whatever
bytes are clocked in after its body; RESTART takes the levels then on the lines. What those bytes are: kind, length and body, field by
field, as section 11.2 lays them out. -/
def Obligations.RequestRoundTrip : Prop :=
  (∀ i : Instr,
    let framed := fun (kind : Byte) (body : List Byte) => some (kind :: BitVec.ofNat 8 body.length :: body)
    let unit := fun u : RawUnit => beBytes 4 u.tag.toNat ++ [u.kind, u.length, u.width, u.height] ++ beBytes 2 u.mass.toNat ++
      [u.axle, u.port, u.group, u.power, u.reading] ++ u.preferred.toList
    let entries := fun es : List RawEntry => (es.map fun e => [e.state, e.reserved, e.profile]).flatten
    requestBytes i =
      match i with
      | .null => framed 0x00 []
      | .readStatus => framed 0x01 []
      | .readShipView => framed 0x02 []
      | .readLane lane first => framed 0x03 [lane, first]
      | .readUnit tag => framed 0x04 (beBytes 4 tag.toNat)
      | .readPeer n => framed 0x05 [n]
      | .readIntake => framed 0x06 []
      | .readPlan plan first => framed 0x07 [plan, first]
      | .readReport => framed 0x08 []
      | .submitArrival u => framed 0x10 (unit u)
      | .submitDeparture tag => framed 0x11 (beBytes 4 tag.toNat)
      | .withdraw tag => framed 0x12 (beBytes 4 tag.toNat)
      | .reportParked tag => framed 0x20 (beBytes 4 tag.toNat)
      | .reportAbandoned tag => framed 0x21 (beBytes 4 tag.toNat)
      | .reportDeparted tag => framed 0x22 (beBytes 4 tag.toNat ++ [0])
      | .forcedDeparture tag => framed 0x22 (beBytes 4 tag.toNat ++ [1])
      | .reportStayed tag => framed 0x23 (beBytes 4 tag.toNat)
      | .setTrimWindow lo hi => framed 0x30 (beBytes 6 lo.toNat ++ beBytes 6 hi.toNat)
      | .loadPlanActive first dflt es => framed 0x40 ([0, first, dflt] ++ entries es)
      | .loadPlanStaged target first dflt es => framed 0x40 ([target, first, dflt] ++ entries es)
      | .selectStaged target => framed 0x41 [target]
      | .switchPlan target => framed 0x42 [target]
      | .blockLane lane => framed 0x43 [lane]
      | .unblockLane lane => framed 0x44 [lane]
      | .beginRestore => framed 0x50 []
      | .restoreUnit lane s u => framed 0x51 ([lane] ++ beBytes 2 s.toNat ++ unit u)
      | .endRestore => framed 0x52 []
      | .restart _ _ => framed 0x5F []
      | _ => none) ∧
  (∀ i : Instr, (requestBytes i).isSome = true → (i.wellFormed = true ↔
    match i with
    | .loadPlanActive _ _ es => es.length ≤ 24
    | .loadPlanStaged target _ _ es => target ≠ 0 ∧ es.length ≤ 24
    | _ => True)) ∧
  ∀ (i : Instr) (bytes after : List Byte) (panel switch : Bool), i.wellFormed = true → requestBytes i = some bytes →
    requestOfBytes panel switch (bytes ++ after) = some
      (match i with
      | .restart _ _ => .restart panel switch
      | _ => i)

/-- The frames the part sends pass the encoding checks of R181, given that the values read are within their ranges. What a notice carries
when it is read at an attempt's start (R114). -/
def Obligations.SentFramesValid : Prop :=
  (∀ (s : State) (n : Notice), noticeBody s n =
    match n with
    | .intent e => .intent e
    | .settle id => .settle id s.units.sums
    | .retract id => .retract id
    | .summary => .summary s.units.sums (s.units.records.filter fun r => r.state != .pending).length (summaryList s.intents)) ∧
  ∀ (s : State) (n : Notice),
    sumsValid s.units.sums = true → s.units.records.length ≤ 512 → s.intents.open_.length ≤ 4 →
    (∀ it ∈ s.intents.open_, entryValid ⟨it.id, it.dir, it.delta⟩ = true) →
    (∀ e, n = .intent e → entryValid e = true) → (noticeBody s n).valid = true

/-! ### Peers -/

/-- A received notice (R108, R109, R122, R125, R136): heard only where its run began on an idle line and no frame of that run has been
judged; taken in only where its contents are valid, the station handed frames over at its start and still does (log entry 10); then by
its number: the station's own, an expected peer's, or a stray one. Judged in any case, it is line activity until LINE_IDLE; elsewhere it
changes nothing (log entry 9). -/
def Obligations.ReceiveOutcome : Prop :=
  (∀ (t : PeerTable) (n : StationNo), t.find n = t.peers.find? fun p => p.number == n) ∧
  ∀ (head : FrameHead) (body : FrameBody) (s : State), s.control.held = false →
    exec (receiveCommand head body) s = .next
      (let t := { s with bus := { s.bus with line := .judged } }
      if s.bus.line = .unsynced ∨ s.bus.line = .judged then s
      else
        match s.image with
        | none => t
        | some im =>
          if head.inService = false ∨ s.control.station = .loading ∨ s.control.station = .faulted ∨ body.valid = false then t
          else if head.station = im.stationNo then
            if s.control.station = .quiet then t else enterQuiet im t
          else
            match s.peers.find head.station with
            | some p => putPeer p (p.take ⟨head.station, head.seq, body⟩) t
            | none =>
              if head.station ∈ s.peers.stray then t
              else
                { t with
                  peers := { s.peers with stray := s.peers.stray ++ [head.station] }
                  reports := admitted (.strayStation head.station) s.reports })

/-- What a frame does to its peer's record: class, contents, last sequence, lock state and silence timer (R126 to R131). -/
def Obligations.PeerRecordAfterFrame : Prop :=
  ∀ (p : Peer) (f : Frame),
    let overflow := fun e : IntentEntry => p.recorded.any (fun x => x.id == e.id) = false ∧ 4 ≤ p.recorded.length
    let gap := fun k : Lock => match k with
      | .locked => Lock.doubtful
      | .doubtful => .lost
      | .lost => .lost
      | .unheard => .unheard
    p.take f =
      match f.body with
      | .summary sums parked es =>
        { p with
          lock := .locked, lastSeq := some f.seq, sums := sums, parked := parked, recorded := es, silence := .running 0 }
      | .intent e =>
        if p.lastSeq = some f.seq then { p with silence := .running 0 }
        else
          { p with
            silence := .running 0
            lastSeq := some f.seq
            recorded := (if overflow e then p.recorded.drop 1 else p.recorded.filter fun x => x.id != e.id) ++ [e]
            lock :=
              if p.lastSeq = some (f.seq - 1) then
                if p.lock = .locked ∧ overflow e then .doubtful else p.lock
              else gap p.lock }
      | .settle id sums =>
        if p.lastSeq = some f.seq then { p with silence := .running 0 }
        else
          { p with
            silence := .running 0
            lastSeq := some f.seq
            recorded := p.recorded.filter fun x => x.id != id
            sums := sums
            lock := if p.lastSeq = some (f.seq - 1) then p.lock else gap p.lock }
      | .retract id =>
        if p.lastSeq = some f.seq then { p with silence := .running 0 }
        else
          { p with
            silence := .running 0
            lastSeq := some f.seq
            recorded := p.recorded.filter fun x => x.id != id
            lock := if p.lastSeq = some (f.seq - 1) then p.lock else gap p.lock }

/-- What a changed record hands on (R134, R135): the peer report first, then held entries released, then the limit-excess state
settled; a record whose sums, set of recorded intents and lock state are as before hands on nothing. -/
def Obligations.PeerChangeHandsOn : Prop :=
  ∀ (p q : Peer) (s : State),
    let t := { s with peers := { s.peers with
      peers := updateFirst (fun x => x.number == q.number) (fun _ => q) s.peers.peers } }
    let changed := p.sums ≠ q.sums ∨ p.lock ≠ q.lock ∨ ¬ ((∀ e ∈ p.recorded, e ∈ q.recorded) ∧ ∀ e ∈ q.recorded, e ∈ p.recorded)
    (¬ changed → putPeer p q s = t) ∧
    (changed → putPeer p q s = settle (releaseHeld
      { t with reports :=
          if p.lock ≠ .lost ∧ q.lock = .lost then admitted (.peerLost p.number) s.reports
          else if p.lock = .lost ∧ q.lock = .locked then admitted (.peerRegained p.number) s.reports
          else s.reports }))

/-- Entry to QUIET on a valid frame with the station's own number (R137, R121, R36, R177). That a restore mark stays set is the model's
choice of log entry 13. The entry whole: DUPLICATE NUMBER posted, the bus controller silenced, then an UNANNOUNCED intent cancelled. -/
def Obligations.QuietEntry : Prop :=
  (∀ (im : Image) (s : State),
    let t :=
      { s with
        control := { s.control with station := .quiet, listen := none }
        bus := { s.bus with
          queue := [], attempts := 0, frontSeq := none, refresh := false, sending := none, heartbeat := none }
        reports := admitted (.duplicateNumber im.stationNo) s.reports }
    enterQuiet im s =
      match s.intents.open_.find? fun it => it.state == .unannounced with
      | none => t
      | some it => cancelIntent im it t) ∧
  ∀ (head : FrameHead) (body : FrameBody) (s : State) (im : Image),
    s.image = some im → s.control.held = false → s.bus.line = .idle ∨ s.bus.line = .running →
    s.control.station = .listening ∨ s.control.station = .restoring ∨ s.control.station = .joined →
    head.station = im.stationNo → head.inService = true → body.valid = true →
    (s.intents.open_.filter fun it => it.state == .unannounced).length ≤ 1 →
    ∃ t, exec (receiveCommand head body) s = .next t ∧
      t.control = { s.control with station := .quiet, listen := none } ∧
      t.bus.queue = [] ∧ t.bus.sending = none ∧ t.bus.heartbeat = none ∧ t.bus.attempts = 0 ∧ t.bus.refresh = false ∧
      t.bus.counter = s.bus.counter ∧ t.peers = s.peers ∧ alarm t = true ∧ gateOpen t = false ∧
      (∀ it ∈ t.intents.open_, it.state ≠ .unannounced) ∧
      (∀ it ∈ s.intents.open_, it.state ≠ .unannounced → (s.intents.open_.map Intent.id).Nodup → it ∈ t.intents.open_) ∧
      (s.reports.length < 24 → ∃ more, t.reports = s.reports ++ .duplicateNumber im.stationNo :: more)

/-- SILENCE_EXPIRY of a timer that has reached the silence limit n × H (R132, R133): a LOCKED or DOUBTFUL record becomes LOST with PEER
LOST posted and what R134 hands on; a LOST or UNHEARD one keeps its lock state; the timer stops at the limit and the record's contents
are kept. Before the limit, as where a frame handled first has restarted the timer (R139), nothing changes (log entries 2 and 8), nor where the
timer does not run. -/
def Obligations.SilenceOutcome : Prop :=
  (∀ (n : StationNo) (s : State), s.image = none ∨ s.peers.find n = none ∨
      (∃ p, s.peers.find n = some p ∧ ∀ ms : Nat, p.silence ≠ .running ms) →
    exec (.silenceExpiry n) s = .next s) ∧
  ∀ (n : StationNo) (s : State) (im : Image) (p : Peer) (ms : Nat), s.image = some im → s.peers.find n = some p →
    p.silence = .running ms →
    let put := fun q : Peer =>
      { s with peers := { s.peers with peers := updateFirst (fun x => x.number == n) (fun _ => q) s.peers.peers } }
    exec (.silenceExpiry n) s = .next
      (if ms < im.silence * im.heartbeat then s
      else if p.lock = .locked ∨ p.lock = .doubtful then
        settle (releaseHeld (post (.peerLost n) (put { p with silence := .atLimit, lock := .lost })))
      else put { p with silence := .atLimit })

/-! ### Lane plans and the trim window -/

/-- SET TRIM WINDOW (R70, R71): a window in range is put in force, the limit-excess state settled and held entries released. -/
def Obligations.SetTrimWindowOutcome : Prop :=
  ∀ (lo hi : BitVec 48) (s : State), Received s →
    exec (.setTrimWindow lo hi) s = whileServed s fun _ =>
      if lo.toInt ≤ hi.toInt ∧ -12288000000 ≤ lo.toInt ∧ hi.toInt ≤ 12288000000 then
        reply .done s (releaseHeld (settle { s with view := { s.view with wMin := lo.toInt, wMax := hi.toInt } }))
      else reply .badValue s s

/-- LOAD PLAN (R144, R145): station state, target and mode, extent, values; the entries taken are those for lanes below the lane count;
to ACTIVE they are a switch-over, to A or B they replace that staged plan's entries and nothing else. An entry's bytes are read as
section 11.2 lays them out. -/
def Obligations.LoadPlanOutcome : Prop :=
  (∀ e : RawEntry, e.entry =
    { closed := decide (e.state = 1)
      reserved := if e.reserved = 0 then none else some e.reserved.toNat
      profile := if e.profile = 0xFF then none else some e.profile.toNat }) ∧
  ∀ (target first dflt : Byte) (es : List RawEntry) (s : State), Received s →
    let bad := fun im : Image => im.laneCount ≤ first.toNat ∨ (es = [] ∧ dflt = 0xFF) ∨
      (∃ e ∈ es, 1 < e.state.toNat ∨ 6 < e.reserved.toNat ∨ (15 < e.profile.toNat ∧ e.profile ≠ 0xFF)) ∨
      (15 < dflt.toNat ∧ dflt ≠ 0xFF)
    let carried := if dflt = 0xFF then none else some dflt.toNat
    let written := fun (im : Image) (p : Plan) =>
      { entries := p.entries.mapIdx fun lane old =>
          if first.toNat ≤ lane ∧ lane < im.laneCount then (es[lane - first.toNat]?.map RawEntry.entry).getD old else old
        dflt := carried.getD p.dflt : Plan }
    (exec (.loadPlanActive first dflt es) s = whileServed s fun im =>
      if im.switchMode ≠ .direct then reply .wrongMode s s
      else if bad im then reply .badValue s s
      else
        let taken := (es.take (im.laneCount - first.toNat)).zipIdx first.toNat
        reply .done s (switchOver im (taken.map fun x => (x.2, x.1.entry)) carried s)) ∧
    (target ≠ 0 → exec (.loadPlanStaged target first dflt es) s = whileServed s fun im =>
      if target ≠ 1 ∧ target ≠ 2 then reply .badValue s s
      else if bad im then reply .badValue s s
      else if target = 1 then reply .done s { s with plans := { s.plans with stagedA := written im s.plans.stagedA } }
      else reply .done s { s with plans := { s.plans with stagedB := written im s.plans.stagedB } })

/-- SELECT STAGED, SWITCH PLAN and the SWITCH input, by switch mode (R144, R146, R147): a switch-over from a staged plan has that plan's
entry for every lane below the lane count and its deck default; its other entries are copied as they stand (R148). -/
def Obligations.PlanSwitchCommands : Prop :=
  ∀ (target : Byte) (s : State),
    let fromPlan := fun (im : Image) (st : Plan) (t : State) =>
      switchOver im ((List.range im.laneCount).map fun lane => (lane, st.entry lane)) (some st.dflt)
        { t with plans := { t.plans with active := { t.plans.active with
            entries := t.plans.active.entries.take im.laneCount ++ st.entries.drop im.laneCount } } }
    (Received s → exec (.selectStaged target) s = whileServed s fun im =>
      if im.switchMode ≠ .line then reply .wrongMode s s
      else if target = 1 then reply .done s { s with plans := { s.plans with selected := .a } }
      else if target = 2 then reply .done s { s with plans := { s.plans with selected := .b } }
      else reply .badValue s s) ∧
    (Received s → exec (.switchPlan target) s = whileServed s fun im =>
      if im.switchMode ≠ .request then reply .wrongMode s s
      else if target = 1 then reply .done s (fromPlan im s.plans.stagedA s)
      else if target = 2 then reply .done s (fromPlan im s.plans.stagedB s)
      else reply .badValue s s) ∧
    exec .switchEdge s = .next
      (if s.control.held = false ∧ s.plans.switchLevel = false then
        let t := { s with plans := { s.plans with switchLevel := true } }
        match s.image with
        | none => t
        | some im =>
          if im.switchMode = .line ∧ (s.control.station = .listening ∨ s.control.station = .restoring ∨
              s.control.station = .joined) then
            fromPlan im (match s.plans.selected with
              | .a => s.plans.stagedA
              | .b => s.plans.stagedB) t
          else t
      else s) ∧
    exec .switchNegated s = .next
      (if s.control.held = false ∧ s.plans.switchLevel = true then
        { s with plans := { s.plans with switchLevel := false } }
      else s)

/-- BLOCK LANE and UNBLOCK LANE (R152); and PANEL_CHANGE (R4), which posts CLEARANCE CONFLICT for each affected lane that holds a unit
above its lowered clearance, in ascending lane number, where the panel is lowered. Each releases held entries. -/
def Obligations.BlocksAndPanel : Prop :=
  ∀ (lane : Byte) (lowered : Bool) (s : State),
    let blocked := fun (b : Bool) =>
      { s with
        plans := { s.plans with lanes := s.plans.lanes.modify lane.toNat fun ls => { ls with blocked := b } }
        intake := s.intake.map Entry.release }
    (Received s → exec (.blockLane lane) s = whileServed s fun im =>
      if im.laneCount ≤ lane.toNat then reply .badValue s s else reply .done s (blocked true)) ∧
    (Received s → exec (.unblockLane lane) s = whileServed s fun im =>
      if im.laneCount ≤ lane.toNat then reply .badValue s s else reply .done s (blocked false)) ∧
    let conflicts := fun im : Image => (List.range im.laneCount).filterMap fun l =>
      let d := im.lane l
      let high := ((onLane s.units.records l).filter fun r => d.low < r.unit.height).length
      if d.low < d.high ∧ 0 < high then some (Report.clearanceConflict l high) else none
    exec (.panelChange lowered) s = .next
      (if s.control.held = false ∧ lowered ≠ s.units.lowered then
        { s with
          units := { s.units with lowered := lowered }
          intake := s.intake.map Entry.release
          reports :=
            match s.image with
            | none => s.reports
            | some im => if lowered then (conflicts im).foldl (fun q r => admitted r q) s.reports else s.reports }
      else s)

/-- A switch-over (R148, R149, R154) over distinct lanes of the deck: each lane by the table of R148; the deck default at once; the
generation one up, 255 to 0; PLAN SWITCHED first, then in ascending lane number LANE NEAR FULL for each lane whose threshold changed, that
was ARMED, and whose free length is below the threshold now; held entries released; nothing else changed. -/
def Obligations.SwitchOverLanes : Prop :=
  ∀ (im : Image) (new : List (Nat × PlanEntry)) (dflt : Option Nat) (s : State),
    (new.map Prod.fst).Nodup →
    (∀ x ∈ new, x.1 < s.plans.lanes.length ∧ x.1 < s.plans.active.entries.length) →
    im.laneCount ≤ s.plans.lanes.length →
    let t := switchOver im new dflt s
    let passed := fun lane : Nat =>
      threshold im t.plans lane ≠ threshold im s.plans lane ∧ (s.plans.lane lane).reported = false ∧
        freeLength im s.units.records lane < threshold im t.plans lane
    (∀ lane : Nat,
      let c := s.plans.active.entry lane
      let before := (s.plans.lane lane).pending
      let after := (t.plans.active.entry lane, (t.plans.lane lane).pending)
      match new.lookup lane with
      | none => after = (c, before)
      | some n =>
        if n = c then after = (c, none)
        else if before ≠ none ∨ ∃ it ∈ s.intents.open_, ∃ r, s.units.find it.tag = some r ∧ r.lane = lane then
          after = (c, some n)
        else after = (n, none)) ∧
    (∀ lane : Nat, (t.plans.lane lane).blocked = (s.plans.lane lane).blocked ∧
      (t.plans.lane lane).reported =
        if lane < im.laneCount ∧ threshold im t.plans lane ≠ threshold im s.plans lane then
          decide (freeLength im s.units.records lane < threshold im t.plans lane)
        else (s.plans.lane lane).reported) ∧
    t.plans.active.dflt = dflt.getD s.plans.active.dflt ∧ t.plans.generation = s.plans.generation + 1 ∧
    t.reports = ((List.range im.laneCount).filter fun lane => decide (passed lane)).foldl
      (fun q lane => admitted (.laneNearFull lane (freeLength im s.units.records lane)) q)
      (admitted (.planSwitched (s.plans.generation + 1) (t.plans.lanes.filter fun ls => ls.pending.isSome).length)
        s.reports) ∧
    t = { s with
      plans := { s.plans with active := t.plans.active, lanes := t.plans.lanes, generation := t.plans.generation }
      reports := t.reports
      intake := s.intake.map Entry.release }

/-- The free length of a lane (R10), the threshold of its effective profile (R141, R143), the one compared with the other (R153, the
table of near-full states), and the pending entry that a DEFERRED lane takes once no own open intent is on it (R150). -/
def Obligations.NearFullAndPending : Prop :=
  (∀ (im : Image) (p : PlanStore) (lane : Nat), threshold im p lane =
    match (p.active.entry lane).profile with
    | some n => (im.profiles.getD n Profile.none).threshold
    | none => (im.profiles.getD p.active.dflt Profile.none).threshold) ∧
  (∀ (im : Image) (records : List UnitRecord) (lane : Nat), freeLength im records lane =
    match (records.filter fun r => r.lane == lane).getLast? with
    | none => ((im.lane lane).len : Int)
    | some r => (im.lane lane).len - (r.offset + r.unit.length + im.gap : Nat)) ∧
  ∀ (im : Image) (lane : Nat) (s : State), lane < s.plans.lanes.length → lane < s.plans.active.entries.length →
    let free := freeLength im s.units.records lane
    let put := fun (b : Bool) =>
      { s with plans := { s.plans with lanes := s.plans.lanes.modify lane fun ls => { ls with reported := b } } }
    (compareNearFull im lane s =
      match (s.plans.lane lane).reported, decide (free < threshold im s.plans lane) with
      | false, true => { put true with reports := admitted (.laneNearFull lane free) s.reports }
      | false, false => s
      | true, true => s
      | true, false => put false) ∧
    match (s.plans.lane lane).pending with
    | none => applyPending im lane s = s
    | some e =>
      if ∃ it ∈ s.intents.open_, ∃ r, s.units.find it.tag = some r ∧ r.lane = lane then applyPending im lane s = s
      else
        let t :=
          { s with
            plans := { s.plans with
              active := { s.plans.active with entries := s.plans.active.entries.set lane e }
              lanes := s.plans.lanes.modify lane fun ls => { ls with pending := none } }
            reports := admitted (.laneEntryApplied lane s.plans.generation) s.reports }
        applyPending im lane s =
          if threshold im t.plans lane = threshold im s.plans lane then t else compareNearFull im lane t

/-! ### What every step keeps -/

/-- Every step keeps the bounds of R21 (intake entries), R88 and R93 (open intents, at most one UNANNOUNCED), R117 (one SUMMARY) and
R168 (reports: 29 at most, 28 while an intent is UNANNOUNCED). -/
def Obligations.BoundsKept : Prop :=
  ∀ s t : State, Bounded s ∧ OneSummary s ∧ IntakeBounded s → step s = .next t → Bounded t ∧ OneSummary t ∧ IntakeBounded t

/-- Every step keeps the deck sums the exact sums over the PARKED and LEAVING records (R17, R18), and no tag held twice (R22). -/
def Obligations.DeckSumsKept : Prop :=
  ∀ s t : State, DeckSumsAgree s → step s = .next t → DeckSumsAgree t

/-- Every step keeps the limit-excess state in agreement with the view (R82): no event that changes a source of the view leaves it
unsettled. -/
def Obligations.ViewSettledKept : Prop :=
  ∀ s t : State, ViewSettled s → step s = .next t → ViewSettled t

/-- Every step keeps the lanes in order: spacing by the station gap, the port order of the lane's kind, within the usable length, at most
40 records to a lane and 512 in all (R8, R9, R13, R20). -/
def Obligations.LanesKept : Prop :=
  ∀ s t : State, LanesProper s → step s = .next t → LanesProper t

/-- Every step keeps intents and records matched (R87, R88): one open intent to each PENDING or LEAVING record, one such record to each
open intent, with the record's contributions as its deltas. -/
def Obligations.IntentsKept : Prop :=
  ∀ s t : State, IntentsProper s → step s = .next t → IntentsProper t

/-- The reset state has every one of the properties that steps keep. -/
def Obligations.InvariantsHoldAtReset : Prop :=
  (Bounded State.reset ∧ OneSummary State.reset ∧ IntakeBounded State.reset) ∧ DeckSumsAgree State.reset ∧
    ViewSettled State.reset ∧ LanesProper State.reset ∧ IntentsProper State.reset
end

