-- ==== Sys2Proof/Laws/Bytes.lean ====
section
/-! SUPPORT. Fields as bytes and back (chapter 11): lengths, and reading what was written. -/

namespace Sys2Proof.Machine

@[simp] theorem beBytes_length (n x : Nat) : (beBytes n x).length = n := by
  induction n with
  | zero => rfl
  | succ n ih => simp [beBytes, ih]

@[simp] theorem beInt_length (n : Nat) (x : Int) : (beInt n x).length = n := beBytes_length n _

@[simp] theorem sumsBytes_length (q : Quad) : (sumsBytes q).length = 16 := by simp [sumsBytes]

@[simp] theorem entryBytes_length (e : IntentEntry) : (entryBytes e).length = 15 := by simp [entryBytes]

@[simp] theorem rawUnitBytes_length (u : RawUnit) : (rawUnitBytes u).length = 15 + u.preferred.toList.length := by
  simp [rawUnitBytes]; omega

@[simp] theorem rawEntriesBytes_length (es : List RawEntry) : (rawEntriesBytes es).length = 3 * es.length := by
  induction es with
  | nil => rfl
  | cons e es ih => simp only [rawEntriesBytes, List.flatMap_cons, List.length_append] at *; simp [ih]; omega

theorem beNat_acc (bytes : List Byte) (acc : Nat) :
    bytes.foldl (fun acc b => acc * 256 + b.toNat) acc = acc * 256 ^ bytes.length + beNat bytes := by
  induction bytes generalizing acc with
  | nil => simp [beNat]
  | cons b bs ih =>
    simp only [List.foldl_cons, List.length_cons, beNat, Nat.zero_mul, Nat.zero_add]
    rw [ih, ih b.toNat]
    ring

theorem beNat_cons (b : Byte) (bs : List Byte) : beNat (b :: bs) = b.toNat * 256 ^ bs.length + beNat bs := by
  simp only [beNat, List.foldl_cons, Nat.zero_mul, Nat.zero_add]
  exact beNat_acc bs b.toNat

/-- The number read from bytes is below the number of values they can hold. -/
theorem beNat_lt (bs : List Byte) : beNat bs < 256 ^ bs.length := by
  induction bs with
  | nil => simp [beNat]
  | cons b bs ih =>
    rw [beNat_cons, List.length_cons, pow_succ]
    have := b.isLt
    nlinarith

/-- Reading the bytes of a number gives its value modulo the field's width. -/
theorem beNat_beBytes (n x : Nat) : beNat (beBytes n x) = x % 256 ^ n := by
  induction n with
  | zero => simp [beBytes, beNat, Nat.mod_one]
  | succ n ih =>
    rw [beBytes, beNat_cons, beBytes_length, ih, BitVec.toNat_ofNat, Nat.pow_succ 256 n, Nat.mod_mul]
    ring

/-- Reading the bytes of a signed number that fits gives it back. -/
theorem beSigned_beInt (n : Nat) (x : Int) (lo : -(256 ^ n : Nat) ≤ 2 * x) (hi : 2 * x < (256 ^ n : Nat)) :
    beSigned (beInt n x) = x := by
  have hp : (0 : Int) < (256 ^ n : Nat) := by positivity
  have h0 := Int.emod_nonneg x hp.ne'
  have h1 := Int.emod_lt_of_pos x hp
  simp only [beSigned, beInt_length]
  rw [beInt, beNat_beBytes, Nat.mod_eq_of_lt (by omega)]
  rcases lt_or_ge x 0 with hx | hx
  · have : x % (256 ^ n : Nat) = x + (256 ^ n : Nat) := by
      rw [← Int.add_emod_right, Int.emod_eq_of_lt] <;> omega
    rw [if_neg] <;> omega
  · rw [Int.emod_eq_of_lt hx (by omega), if_pos] <;> omega

/-- Reading the bytes of an unsigned number that fits gives it back. -/
theorem beNat_beInt (n : Nat) (x : Int) (lo : 0 ≤ x) (hi : x < (256 ^ n : Nat)) : (beNat (beInt n x) : Int) = x := by
  rw [beInt, beNat_beBytes, Int.emod_eq_of_lt lo hi, Nat.mod_eq_of_lt] <;> omega

/-- A field that stands first. -/
theorem field_append (a b : List Byte) (n : Nat) (h : a.length = n) : field (a ++ b) 0 n = beNat a := by
  simp [field, ← h]

/-- A field behind others. -/
theorem field_drop (a b : List Byte) (offset n : Nat) (h : a.length ≤ offset) :
    field (a ++ b) offset n = field b (offset - a.length) n := by
  simp [field, List.drop_append, List.drop_eq_nil_of_le h]

theorem fieldSigned_append (a b : List Byte) (n : Nat) (h : a.length = n) : fieldSigned (a ++ b) 0 n = beSigned a := by
  simp [fieldSigned, ← h]

theorem fieldSigned_drop (a b : List Byte) (offset n : Nat) (h : a.length ≤ offset) :
    fieldSigned (a ++ b) offset n = fieldSigned b (offset - a.length) n := by
  simp [fieldSigned, List.drop_append, List.drop_eq_nil_of_le h]

/-! ### Whole layouts, read back -/

theorem rawUnitOfBytes_rawUnitBytes (u : RawUnit) : rawUnitOfBytes (rawUnitBytes u) = u := by
  have h1 := u.tag.isLt
  have h2 := u.mass.isLt
  rcases u with ⟨tag, kind, length, width, height, mass, axle, port, group, power, reading, pref⟩
  simp only [rawUnitOfBytes, rawUnitBytes, field_append _ _ 4 (beBytes_length 4 _), beNat_beBytes]
  have e1 : BitVec.ofNat 32 (tag.toNat % 256 ^ 4) = tag := by
    apply BitVec.eq_of_toNat_eq; simp; exact tag.isLt
  have e2 : BitVec.ofNat 16 (mass.toNat % 256 ^ 2) = mass := by
    apply BitVec.eq_of_toNat_eq; simp; exact mass.isLt
  have e3 : field (beBytes 4 tag.toNat ++ ([kind, length, width, height] ++ (beBytes 2 mass.toNat ++
    ([axle, port, group, power, reading] ++ pref.toList)))) 8 2 = mass.toNat % 256 ^ 2 := by
    rw [field_drop _ _ _ _ (by simp), field_drop _ _ _ _ (by simp), ← beNat_beBytes]
    exact field_append _ _ 2 (beBytes_length 2 _)
  rw [e1, e3, e2]
  cases pref <;> rfl

theorem rawEntriesOfBytes_rawEntriesBytes (es : List RawEntry) : rawEntriesOfBytes (rawEntriesBytes es) = es := by
  induction es with
  | nil => rfl
  | cons e es ih => simp only [rawEntriesBytes, List.flatMap_cons] at *; simp [rawEntriesOfBytes, ih]

theorem tag_of_beBytes_append (tag : Tag) (r : List Byte) : BitVec.ofNat 32 (field (beBytes 4 tag.toNat ++ r) 0 4) = tag := by
  rw [field_append _ _ 4 (beBytes_length 4 _), beNat_beBytes]; apply BitVec.eq_of_toNat_eq; simp; exact tag.isLt
theorem tag_of_beBytes (tag : Tag) : BitVec.ofNat 32 (field (beBytes 4 tag.toNat) 0 4) = tag := by
  simpa using tag_of_beBytes_append tag []

theorem requestOfBytes_framed (panel sw : Bool) (k : Byte) (body after : List Byte) (hl : body.length < 256)
    (ha : lengthAllowed k.toNat body.length = true) :
    requestOfBytes panel sw ((k :: numByte body.length :: body) ++ after) = requestOfBody panel sw k.toNat body := by
  have hn : (numByte body.length).toNat = body.length := by simp [numByte]; omega
  have hw : wellFramed ((k :: numByte body.length :: body) ++ after) = true := by
    simp [wellFramed, byteField, hn, ha]
  simp only [requestOfBytes, hw, if_true]
  simp [byteField, hn]

theorem sumsOfBytes_sumsBytes (q : Quad) (r : List Byte) (h : sumsValid q = true) : sumsOfBytes (sumsBytes q ++ r) = q := by
  rcases q with ⟨m, t, l, v⟩
  simp only [sumsValid, Bool.and_eq_true, decide_eq_true_eq] at h
  have e0 : sumsBytes ⟨m, t, l, v⟩ ++ r = beInt 4 m ++ (beInt 4 t ++ (beInt 4 l ++ (beInt 4 v ++ r))) := by simp [sumsBytes]
  have e1 : (field (sumsBytes ⟨m, t, l, v⟩ ++ r) 0 4 : Int) = m := by
    rw [e0, field_append _ _ 4 (by simp), beNat_beInt _ _ (by omega) (by norm_num; omega)]
  have e2 : fieldSigned (sumsBytes ⟨m, t, l, v⟩ ++ r) 4 4 = t := by
    rw [e0, fieldSigned_drop _ _ 4 4 (by simp), beInt_length, fieldSigned_append _ _ 4 (by simp),
      beSigned_beInt _ _ (by norm_num; omega) (by norm_num; omega)]
  have e3 : fieldSigned (sumsBytes ⟨m, t, l, v⟩ ++ r) 8 4 = l := by
    rw [e0, fieldSigned_drop _ _ 8 4 (by simp), fieldSigned_drop _ _ _ 4 (by simp), beInt_length, beInt_length,
      fieldSigned_append _ _ 4 (by simp), beSigned_beInt _ _ (by norm_num; omega) (by norm_num; omega)]
  have e4 : (field (sumsBytes ⟨m, t, l, v⟩ ++ r) 12 4 : Int) = v := by
    rw [e0, field_drop _ _ 12 4 (by simp), field_drop _ _ _ 4 (by simp), field_drop _ _ _ 4 (by simp), beInt_length,
      beInt_length, beInt_length, field_append _ _ 4 (by simp), beNat_beInt _ _ (by omega) (by norm_num; omega)]
  simp only [sumsOfBytes, e1, e2, e3, e4]

theorem entryOfBytes_entryBytes (e : IntentEntry) (h : entryValid e = true) : entryOfBytes (entryBytes e) = some e := by
  rcases e with ⟨id, dir, ⟨m, t, l, v⟩⟩
  have hb : -600 ≤ m ∧ m ≤ 600 ∧ -240000 ≤ t ∧ t ≤ 240000 ∧ -3000000 ≤ l ∧ l ≤ 3000000 ∧ -510000 ≤ v ∧ v ≤ 510000 := by
    cases dir <;> simp only [entryValid, Bool.and_eq_true, decide_eq_true_eq] at h <;> omega
  have hid := id.isLt
  have hf : (byteField (entryBytes ⟨id, dir, ⟨m, t, l, v⟩⟩) 0).toNat = id.val + (match dir with | .place => 0 | .remove => 16) := by
    cases dir <;> simp [byteField, entryBytes, idDirByte, numByte] <;> omega
  have e0 : entryBytes ⟨id, dir, ⟨m, t, l, v⟩⟩ = [idDirByte id dir] ++ (beInt 2 m ++ (beInt 4 t ++ (beInt 4 l ++ (beInt 4 v ++ [])))) := by simp [entryBytes]
  have e1 : fieldSigned (entryBytes ⟨id, dir, ⟨m, t, l, v⟩⟩) 1 2 = m := by
    rw [e0, fieldSigned_drop _ _ 1 2 (by simp)]; simp only [List.length_singleton, Nat.sub_self]
    rw [fieldSigned_append _ _ 2 (by simp), beSigned_beInt _ _ (by norm_num; omega) (by norm_num; omega)]
  have e2 : fieldSigned (entryBytes ⟨id, dir, ⟨m, t, l, v⟩⟩) 3 4 = t := by
    rw [e0, fieldSigned_drop _ _ 3 4 (by simp), fieldSigned_drop _ _ _ 4 (by simp)]; simp only [List.length_singleton, beInt_length, Nat.sub_self, Nat.reduceSub]
    rw [fieldSigned_append _ _ 4 (by simp), beSigned_beInt _ _ (by norm_num; omega) (by norm_num; omega)]
  have e3 : fieldSigned (entryBytes ⟨id, dir, ⟨m, t, l, v⟩⟩) 7 4 = l := by
    rw [e0, fieldSigned_drop _ _ 7 4 (by simp), fieldSigned_drop _ _ _ 4 (by simp), fieldSigned_drop _ _ _ 4 (by simp)]; simp only [List.length_singleton, beInt_length, Nat.sub_self, Nat.reduceSub]
    rw [fieldSigned_append _ _ 4 (by simp), beSigned_beInt _ _ (by norm_num; omega) (by norm_num; omega)]
  have e4 : fieldSigned (entryBytes ⟨id, dir, ⟨m, t, l, v⟩⟩) 11 4 = v := by
    rw [e0, fieldSigned_drop _ _ 11 4 (by simp), fieldSigned_drop _ _ _ 4 (by simp), fieldSigned_drop _ _ _ 4 (by simp), fieldSigned_drop _ _ _ 4 (by simp)]; simp only [List.length_singleton, beInt_length, Nat.sub_self, Nat.reduceSub]
    rw [fieldSigned_append _ _ 4 (by simp), beSigned_beInt _ _ (by norm_num; omega) (by norm_num; omega)]
  simp only [entryOfBytes, hf, e1, e2, e3, e4]
  cases dir
  · simp only [Nat.add_zero]; rw [if_pos (by omega)]; simp [Nat.mod_eq_of_lt hid, hid]
  · simp only; rw [if_pos (by omega)]; simp [Nat.mod_eq_of_lt hid]

theorem entriesOfBytes_entriesBytes (es : List IntentEntry) (h : es.all entryValid = true) : entriesOfBytes es.length (es.flatMap entryBytes) = some es := by
  induction es with
  | nil => rfl
  | cons e es ih =>
    simp only [List.all_cons, Bool.and_eq_true] at h
    simp only [List.length_cons, entriesOfBytes, List.flatMap_cons]
    rw [List.take_left' (entryBytes_length e), List.drop_left' (entryBytes_length e), entryOfBytes_entryBytes e h.1, ih h.2]

theorem entriesBytes_length (es : List IntentEntry) : (es.flatMap entryBytes).length = 15 * es.length := by
  induction es with
  | nil => rfl
  | cons e es ih => simp [List.flatMap_cons]; omega

theorem idOfByte_numByte (id : IntentId) : idOfByte (numByte id.val) = some id := by
  have := id.isLt
  have h : (numByte id.val).toNat = id.val := by simp [numByte]; omega
  simp [idOfByte, h]

theorem bodyOfBytes_bytes (b : FrameBody) (h : b.valid = true) : bodyOfBytes b.code b.bytes = some b := by
  cases b with
  | intent e => simp [bodyOfBytes, FrameBody.code, FrameBody.bytes, entryOfBytes_entryBytes e h]
  | settle id q => 
    have := sumsOfBytes_sumsBytes q [] h
    simp at this
    simp [bodyOfBytes, FrameBody.code, FrameBody.bytes, byteField, idOfByte_numByte, this]
  | retract id => simp [bodyOfBytes, FrameBody.code, FrameBody.bytes, byteField, idOfByte_numByte]
  | summary q n es =>
    simp only [FrameBody.valid, Bool.and_eq_true, decide_eq_true_eq] at h
    obtain ⟨⟨⟨⟨h1, h2⟩, h3⟩, h4⟩, h5⟩ := h
    have e1 : byteField (FrameBody.summary q n es).bytes 18 = numByte es.length := by
      simp [byteField, FrameBody.bytes, List.getD, List.getElem?_append]
    have e2 : (numByte es.length).toNat = es.length := by simp [numByte]; omega
    have e3 : (FrameBody.summary q n es).bytes.length = 19 + 15 * es.length := by
      simp only [FrameBody.bytes, List.length_append, List.length_cons, entriesBytes_length, sumsBytes_length, beBytes_length]; omega
    have e4 : (FrameBody.summary q n es).bytes.drop 19 = es.flatMap entryBytes := by
      simp only [FrameBody.bytes]
      rw [List.drop_append, List.drop_append]
      simp [List.drop_eq_nil_of_le]
    have e5 : field (FrameBody.summary q n es).bytes 16 2 = n := by
      simp only [FrameBody.bytes]
      rw [field_drop _ _ 16 2 (by simp)]
      simp only [sumsBytes_length, Nat.sub_self]
      rw [field_append _ _ 2 (by simp), beNat_beBytes]
      apply Nat.mod_eq_of_lt; norm_num; omega
    have e6 : sumsOfBytes (FrameBody.summary q n es).bytes = q := sumsOfBytes_sumsBytes q _ h1
    simp only [bodyOfBytes, FrameBody.code, e1, e2, e3, e4, e5, e6, entriesOfBytes_entriesBytes es h5]
    simp [h3]

end Sys2Proof.Machine
end

