-- ==== Sys2Proof/Laws/Check.lean ====
section
/-! SUPPORT. The check of R107 bit by bit: its register is linear, so a byte taken at once is the byte's bits taken one after another. -/

namespace Sys2Proof.Machine

/-- One bit through the check register: the polynomial is added where the bit shifted out differs from it. -/
def checkBit (reg : BitVec 16) (bit : Bool) : BitVec 16 := if reg.msb = bit then reg <<< 1 else (reg <<< 1) ^^^ 0x1021

theorem checkShift_xor (x y : BitVec 16) : checkShift (x ^^^ y) = checkShift x ^^^ checkShift y := by
  unfold checkShift
  rw [BitVec.msb_xor, BitVec.shiftLeft_xor_distrib]
  cases x.msb <;> cases y.msb <;> simp
  · rw [BitVec.xor_assoc]
  · rw [BitVec.xor_assoc, BitVec.xor_assoc, BitVec.xor_comm (y <<< 1)]
  · rw [BitVec.xor_assoc, ← BitVec.xor_assoc (4129#16), BitVec.xor_comm (4129#16), BitVec.xor_assoc (y <<< 1), BitVec.xor_self,
      BitVec.xor_zero]

theorem checkShifts_xor (n : Nat) (x y : BitVec 16) : checkShifts n (x ^^^ y) = checkShifts n x ^^^ checkShifts n y := by
  induction n generalizing x y with
  | zero => rfl
  | succ n ih => simp [checkShifts, checkShift_xor, ih]

theorem checkBit_eq (x : BitVec 16) (bit : Bool) : checkBit x bit = checkShift x ^^^ (if bit then 0x1021 else 0) := by
  unfold checkBit checkShift
  cases x.msb <;> cases bit <;> simp

/-- Bits taken from a sum of two registers. -/
theorem foldl_checkBit_xor (bits : List Bool) (x y : BitVec 16) :
    bits.foldl checkBit (x ^^^ y) = checkShifts bits.length x ^^^ bits.foldl checkBit y := by
  induction bits generalizing x y with
  | nil => rfl
  | cons bit bits ih =>
    rw [List.foldl_cons, List.foldl_cons, List.length_cons, checkShifts, ← ih, checkBit_eq, checkShift_xor, checkBit_eq,
      BitVec.xor_assoc]

theorem foldl_checkBit_zero (b : Byte) : (msbFirst b).foldl checkBit 0 = checkShifts 8 (b.setWidth 16 <<< 8) := by
  revert b
  decide +kernel

/-- A byte through the check register is its bits through it, most significant first (R107). -/
theorem checkByte_eq_foldl (reg : BitVec 16) (b : Byte) : checkByte reg b = (msbFirst b).foldl checkBit reg := by
  have h := foldl_checkBit_xor (msbFirst b) reg 0
  rw [show reg ^^^ 0 = reg from BitVec.xor_zero, foldl_checkBit_zero] at h
  rw [h, checkByte, checkShifts_xor]
  rfl

end Sys2Proof.Machine
end

