-- ==== Sys2Proof/Laws/Image.lean ====
section
/-! SUPPORT. Fields of a slice of the configuration image are fields of the image, and what stands at a place of its chunks. -/

namespace Sys2Proof.Machine

theorem field_slice (image : List Byte) (a m o n : Nat) (h : o + n ≤ m) :
    field ((image.drop a).take m) o n = field image (a + o) n := by
  rw [field, field, List.drop_take, List.take_take, List.drop_drop, Nat.min_eq_left (by omega)]

theorem fieldSigned_slice (image : List Byte) (a m o n : Nat) (h : o + n ≤ m) :
    fieldSigned ((image.drop a).take m) o n = fieldSigned image (a + o) n := by
  rw [fieldSigned, fieldSigned, List.drop_take, List.take_take, List.drop_drop, Nat.min_eq_left (by omega)]

theorem byteField_slice (image : List Byte) (a m o : Nat) (h : o < m) :
    byteField ((image.drop a).take m) o = byteField image (a + o) := by
  simp [byteField, List.getD_eq_getElem?_getD, h]

theorem byteField_drop (image : List Byte) (a o : Nat) : byteField (image.drop a) o = byteField image (a + o) := by
  simp [byteField, List.getD_eq_getElem?_getD]

theorem field_one (image : List Byte) (place : Nat) : field image place 1 = (byteField image place).toNat := by
  rw [field, byteField, beNat, List.getD_eq_getElem?_getD, ← List.head?_drop]
  cases image.drop place <;> simp

/-- A field one byte longer is the shorter one shifted up by a byte, with the next byte added. -/
theorem field_succ (image : List Byte) (place n : Nat) (h : place + n < image.length) :
    field image place (n + 1) = field image place n * 256 + (byteField image (place + n)).toNat := by
  have last : (image.drop place).take (n + 1) = (image.drop place).take n ++ [byteField image (place + n)] := by
    rw [List.take_add_one]
    simp [byteField, List.getD_eq_getElem?_getD, List.getElem?_eq_getElem h]
  rw [field, field, last]
  simp [beNat]

@[simp] theorem chunks_length (size count : Nat) (bytes : List Byte) : (chunks size count bytes).length = count := by
  induction count generalizing bytes with
  | zero => rfl
  | succ count ih => simp [chunks, ih]

/-- The chunk at a place. -/
theorem chunks_getElem? (size count : Nat) (bytes : List Byte) (i : Nat) :
    (chunks size count bytes)[i]? = if i < count then some ((bytes.drop (size * i)).take size) else none := by
  induction count generalizing bytes i with
  | zero => simp [chunks]
  | succ count ih =>
    cases i with
    | zero => simp [chunks]
    | succ i => simp [chunks, ih, List.drop_drop, Nat.mul_add, Nat.add_comm size]

end Sys2Proof.Machine
end

