-- ==== Sys2Proof/Laws/Decoded.lean ====
section
/-! SUPPORT. What is read from the bytes of a frame's body has those bytes: the converse of the round trips of Laws/Bytes.lean. -/

namespace Sys2Proof.Machine

/-- Only the low part of a number is in its low bytes. -/
theorem beBytes_add (n x y : Nat) : beBytes n (x * 256 ^ n + y) = beBytes n y := by
  induction n generalizing x with
  | zero => rfl
  | succ n ih =>
    simp only [beBytes]
    have h1 : x * 256 ^ (n+1) + y = (x * 256) * 256 ^ n + y := by ring
    rw [h1, ih]
    congr 1
    rw [Nat.add_comm, Nat.add_mul_div_right _ _ (by positivity)]
    apply BitVec.eq_of_toNat_eq; simp

/-- The bytes of the number read from bytes are those bytes. -/
theorem beBytes_beNat (bs : List Byte) : beBytes bs.length (beNat bs) = bs := by
  induction bs with
  | nil => rfl
  | cons b bs ih =>
    rw [List.length_cons, beBytes, beNat_cons, beBytes_add, ih]
    congr 1
    have := beNat_lt bs
    rw [Nat.add_comm, Nat.add_mul_div_right _ _ (by positivity), Nat.div_eq_of_lt this]
    simp

theorem beInt_beNat (bs : List Byte) : beInt bs.length (beNat bs) = bs := by
  have := beNat_lt bs
  rw [beInt, Int.emod_eq_of_lt (by omega) (by exact_mod_cast this), Int.toNat_natCast, beBytes_beNat]

theorem beInt_beSigned (bs : List Byte) : beInt bs.length (beSigned bs) = bs := by
  have h := beInt_beNat bs
  unfold beSigned
  simp only []
  split
  · exact h
  · rw [beInt, Int.sub_emod_right]; exact h

theorem beInt_field (b : List Byte) (o n : Nat) (h : o + n ≤ b.length) : beInt n (field b o n) = (b.drop o).take n := by
  have : ((b.drop o).take n).length = n := by simp; omega
  have h2 := beInt_beNat ((b.drop o).take n)
  rw [this] at h2; exact h2

theorem beBytes_field (b : List Byte) (o n : Nat) (h : o + n ≤ b.length) : beBytes n (field b o n) = (b.drop o).take n := by
  have : ((b.drop o).take n).length = n := by simp; omega
  have h2 := beBytes_beNat ((b.drop o).take n)
  rw [this] at h2; exact h2

theorem beInt_fieldSigned (b : List Byte) (o n : Nat) (h : o + n ≤ b.length) : beInt n (fieldSigned b o n) = (b.drop o).take n := by
  have : ((b.drop o).take n).length = n := by simp; omega
  have h2 := beInt_beSigned ((b.drop o).take n)
  rw [this] at h2; exact h2

theorem take_take_drop (b : List Byte) (o m n : Nat) : (b.drop o).take m ++ (b.drop (o+m)).take n = (b.drop o).take (m+n) := by
  rw [List.take_add, List.drop_drop]

/-- Deck sums read from bytes have those bytes. -/
theorem sumsBytes_sumsOfBytes (b : List Byte) (h : 16 ≤ b.length) : sumsBytes (sumsOfBytes b) = b.take 16 := by
  simp only [sumsBytes, sumsOfBytes]
  rw [beInt_field _ _ _ (by omega), beInt_field _ _ _ (by omega), beInt_fieldSigned _ _ _ (by omega), beInt_fieldSigned _ _ _ (by omega)]
  rw [take_take_drop b 8 4 4, take_take_drop b 4 4 8, take_take_drop b 0 4 12]; simp

theorem numByte_toNat (b : Byte) : numByte b.toNat = b := by apply BitVec.eq_of_toNat_eq; simp [numByte]

theorem byteField_cons_drop (b : List Byte) (o : Nat) (h : o < b.length) : byteField b o :: b.drop (o+1) = b.drop o := by
  rw [List.drop_eq_getElem_cons h]; simp [byteField, h]

/-- An intent entry that is read has the bytes it is read from. -/
theorem entryBytes_of_entryOfBytes (b : List Byte) (e : IntentEntry) (h : b.length = 15) (he : entryOfBytes b = some e) : entryBytes e = b := by
  unfold entryOfBytes at he
  simp only [] at he
  split at he
  · rename_i hf
    simp only [Option.some.injEq] at he; subst he
    simp only [entryBytes]
    rw [beInt_fieldSigned _ _ _ (by omega), beInt_fieldSigned _ _ _ (by omega), beInt_fieldSigned _ _ _ (by omega), beInt_fieldSigned _ _ _ (by omega)]
    rw [take_take_drop b 7 4 4, take_take_drop b 3 4 8, take_take_drop b 1 2 12]
    have : idDirByte ⟨(byteField b 0).toNat % 16, Nat.mod_lt _ (by decide)⟩ (if (byteField b 0).toNat < 16 then .place else .remove) = byteField b 0 := by
      split
      · simp only [idDirByte]; rw [Nat.mod_eq_of_lt (by assumption)]; exact numByte_toNat _
      · simp only [idDirByte]; rw [show (byteField b 0).toNat % 16 + 16 = (byteField b 0).toNat by omega]; exact numByte_toNat _
    rw [this]
    have h2 := byteField_cons_drop b 0 (by omega)
    rw [List.take_of_length_le (by simp; omega)]; simpa using h2
  · simp at he

/-- Intent entries that are read have the bytes they are read from. -/
theorem entriesBytes_of_entriesOfBytes (n : Nat) (b : List Byte) (es : List IntentEntry) (h : b.length = 15 * n) (he : entriesOfBytes n b = some es) :
    es.length = n ∧ es.flatMap entryBytes = b := by
  induction n generalizing b es with
  | zero => 
    simp [entriesOfBytes] at he; subst he
    simp at h; subst h; simp
  | succ n ih =>
    simp only [entriesOfBytes] at he
    split at he
    · rename_i e es' h1 h2
      simp at he; subst he
      obtain ⟨h3, h4⟩ := ih (b.drop 15) es' (by simp; omega) h2
      refine ⟨by simp [h3], ?_⟩
      rw [List.flatMap_cons, h4, entryBytes_of_entryOfBytes _ _ (by simp; omega) h1, List.take_append_drop]
    · simp at he

theorem numByte_of_idOfByte (b : Byte) (id : IntentId) (h : idOfByte b = some id) : numByte id.val = b := by
  unfold idOfByte at h; split at h
  · simp at h; subst h; exact numByte_toNat b
  · simp at h

/-- A body that is read has the kind and the bytes that it is read from (R108, section 11.1). -/
theorem bytes_of_bodyOfBytes (k : Nat) (b : List Byte) (body : FrameBody) (h : bodyOfBytes k b = some body) : body.code = k ∧ body.bytes = b := by
  unfold bodyOfBytes at h
  split at h
  · split at h
    · rename_i hl
      simp only [Option.map_eq_some_iff] at h
      obtain ⟨e, h1, rfl⟩ := h
      exact ⟨rfl, entryBytes_of_entryOfBytes _ _ hl h1⟩
    · simp at h
  · split at h
    · rename_i hl
      simp only [Option.map_eq_some_iff] at h
      obtain ⟨id, h1, rfl⟩ := h
      refine ⟨rfl, ?_⟩
      simp only [FrameBody.bytes]
      rw [sumsBytes_sumsOfBytes _ (by simp; omega), numByte_of_idOfByte _ _ h1, List.take_of_length_le (by simp; omega)]
      simpa using byteField_cons_drop b 0 (by omega)
    · simp at h
  · split at h
    · rename_i hl
      simp only [Option.map_eq_some_iff] at h
      obtain ⟨id, h1, rfl⟩ := h
      refine ⟨rfl, ?_⟩
      simp only [FrameBody.bytes, numByte_of_idOfByte _ _ h1]
      have := byteField_cons_drop b 0 (by omega)
      rw [List.drop_eq_nil_of_le (by omega)] at this; simpa using this
    · simp at h
  · simp only [] at h
    split at h
    · rename_i hl
      simp only [Option.map_eq_some_iff] at h
      obtain ⟨es, h1, rfl⟩ := h
      refine ⟨rfl, ?_⟩
      obtain ⟨h3, h4⟩ := entriesBytes_of_entriesOfBytes _ _ _ (by simp; omega) h1
      simp only [FrameBody.bytes]
      rw [sumsBytes_sumsOfBytes _ (by omega), h4, h3, numByte_toNat, beBytes_field _ _ _ (by omega), byteField_cons_drop b 18 (by omega)]
      rw [show b.drop 18 = b.drop (16 + 2) from rfl, ← List.drop_drop, List.take_append_drop, List.take_append_drop]
    · simp at h
  · simp at h

end Sys2Proof.Machine
end

