-- ==== Sys2Proof/Laws/State.lean ====
section
/-! SUPPORT. One lemma per update of the state, true by definition: a conjunction over the fields, which the simplifier takes
apart into one rewriting rule per field. -/

namespace Sys2Proof.Machine

/-! ### Updates of one block -/

@[simp] theorem UnitStore.insert_fields (u : UnitStore) (r : UnitRecord) :
    (u.insert r).lowered = u.lowered ∧ (u.insert r).records = u.records ++ [r] ∧
      (u.insert r).sums = (if r.counts then u.sums.add r.contrib else u.sums) := ⟨rfl, rfl, rfl⟩

@[simp] theorem UnitStore.setState_fields (u : UnitStore) (tag : Tag) (st : RecordState) :
    (u.setState tag st).lowered = u.lowered ∧ (u.setState tag st).sums = u.sums ∧
      (u.setState tag st).records = u.records.map (fun r => if r.unit.tag == tag then { r with state := st } else r) :=
  ⟨rfl, rfl, rfl⟩

@[simp] theorem UnitStore.putBack_fields (u : UnitStore) (tag : Tag) :
    (u.putBack tag).lowered = u.lowered ∧ (u.putBack tag).sums = u.sums ∧
      (u.putBack tag).records =
        u.records.map (fun r => if r.unit.tag == tag && r.state == .leaving then { r with state := .parked } else r) :=
  ⟨rfl, rfl, rfl⟩

@[simp] theorem UnitStore.park_fields (u : UnitStore) (r : UnitRecord) :
    (u.park r).lowered = u.lowered ∧ (u.park r).sums = u.sums.add r.contrib ∧
      (u.park r).records = (u.setState r.unit.tag .parked).records := ⟨rfl, rfl, rfl⟩

@[simp] theorem Bus.newFront_fields (b : Bus) (q : List Notice) :
    (b.newFront q).queue = q ∧ (b.newFront q).attempts = 0 ∧ (b.newFront q).frontSeq = none ∧
      (b.newFront q).refresh = b.refresh ∧ (b.newFront q).sending = b.sending ∧ (b.newFront q).counter = b.counter ∧
      (b.newFront q).heartbeat = b.heartbeat ∧ (b.newFront q).line = b.line := ⟨rfl, rfl, rfl, rfl, rfl, rfl, rfl, rfl⟩

@[simp] theorem Bus.silence_fields (b : Bus) :
    b.silence.queue = [] ∧ b.silence.attempts = 0 ∧ b.silence.frontSeq = none ∧ b.silence.refresh = false ∧
      b.silence.sending = none ∧ b.silence.counter = b.counter ∧ b.silence.heartbeat = none ∧ b.silence.line = b.line :=
  ⟨rfl, rfl, rfl, rfl, rfl, rfl, rfl, rfl⟩

@[simp] theorem Bus.completed_fields (b : Bus) (rest : List Notice) :
    (b.completed rest).queue = rest ∧ (b.completed rest).attempts = 0 ∧ (b.completed rest).frontSeq = none ∧
      (b.completed rest).refresh = false ∧ (b.completed rest).sending = none ∧ (b.completed rest).counter = b.counter + 1 ∧
      (b.completed rest).heartbeat = b.heartbeat ∧ (b.completed rest).line = .judged :=
  ⟨rfl, rfl, rfl, rfl, rfl, rfl, rfl, rfl⟩

@[simp] theorem IntentTable.free_fields (t : IntentTable) (id : IntentId) :
    (t.free id).open_ = t.open_.filter (fun it => it.id != id) ∧ (t.free id).counter = t.counter := ⟨rfl, rfl⟩

@[simp] theorem IntentTable.setState_fields (t : IntentTable) (id : IntentId) (st : IntentState) :
    (t.setState id st).open_ = updateFirst (fun it => it.id == id) (fun it => { it with state := st }) t.open_ ∧
      (t.setState id st).counter = t.counter := ⟨rfl, rfl⟩

@[simp] theorem Plan.setEntry_fields (p : Plan) (lane : Nat) (e : PlanEntry) :
    (p.setEntry lane e).entries = p.entries.set lane e ∧ (p.setEntry lane e).dflt = p.dflt := ⟨rfl, rfl⟩

@[simp] theorem PlanStore.setLane_fields (p : PlanStore) (lane : Nat) (ls : LaneState) :
    (p.setLane lane ls).lanes = p.lanes.set lane ls ∧ (p.setLane lane ls).active = p.active ∧
      (p.setLane lane ls).stagedA = p.stagedA ∧ (p.setLane lane ls).stagedB = p.stagedB ∧
      (p.setLane lane ls).generation = p.generation ∧ (p.setLane lane ls).selected = p.selected ∧
      (p.setLane lane ls).switchLevel = p.switchLevel := ⟨rfl, rfl, rfl, rfl, rfl, rfl, rfl⟩

@[simp] theorem PeerTable.put_fields (t : PeerTable) (p : Peer) :
    (t.put p).peers = updateFirst (fun q => q.number == p.number) (fun _ => p) t.peers ∧ (t.put p).stray = t.stray :=
  ⟨rfl, rfl⟩

@[simp] theorem Port.begin_fields (p : Port) :
    p.begin.rdy = false ∧ p.begin.selection = true ∧ p.begin.pendingReply = p.pendingReply := ⟨rfl, rfl, rfl⟩

/-! ### Updates of the state -/

@[simp] theorem post_fields (r : Report) (s : State) :
    (post r s).port = s.port ∧ (post r s).control = s.control ∧ (post r s).image = s.image ∧
      (post r s).units = s.units ∧ (post r s).intake = s.intake ∧ (post r s).intents = s.intents ∧
      (post r s).view = s.view ∧ (post r s).bus = s.bus ∧ (post r s).peers = s.peers ∧ (post r s).plans = s.plans ∧
      (post r s).fresh = s.fresh ∧ (post r s).pending = s.pending ∧
      (post r s).reports = admitted r s.reports :=
  ⟨rfl, rfl, rfl, rfl, rfl, rfl, rfl, rfl, rfl, rfl, rfl, rfl, rfl⟩

@[simp] theorem releaseHeld_fields (s : State) :
    (releaseHeld s).port = s.port ∧ (releaseHeld s).control = s.control ∧ (releaseHeld s).image = s.image ∧
      (releaseHeld s).units = s.units ∧ (releaseHeld s).intents = s.intents ∧ (releaseHeld s).view = s.view ∧
      (releaseHeld s).bus = s.bus ∧ (releaseHeld s).peers = s.peers ∧ (releaseHeld s).plans = s.plans ∧
      (releaseHeld s).reports = s.reports ∧ (releaseHeld s).fresh = s.fresh ∧ (releaseHeld s).pending = s.pending ∧
      (releaseHeld s).intake = s.intake.map Entry.release :=
  ⟨rfl, rfl, rfl, rfl, rfl, rfl, rfl, rfl, rfl, rfl, rfl, rfl, rfl⟩

@[simp] theorem State.withPort_fields (p : Port) (s : State) :
    (s.withPort p).control = s.control ∧ (s.withPort p).image = s.image ∧
      (s.withPort p).units = s.units ∧ (s.withPort p).intake = s.intake ∧
      (s.withPort p).intents = s.intents ∧ (s.withPort p).view = s.view ∧ (s.withPort p).bus = s.bus ∧
      (s.withPort p).peers = s.peers ∧ (s.withPort p).plans = s.plans ∧
      (s.withPort p).reports = s.reports ∧ (s.withPort p).fresh = s.fresh ∧
      (s.withPort p).pending = s.pending ∧
      (s.withPort p).port = p :=
  ⟨rfl, rfl, rfl, rfl, rfl, rfl, rfl, rfl, rfl, rfl, rfl, rfl, rfl⟩

@[simp] theorem answer_fields (reply : List Byte) (s : State) :
    (answer reply s).control = s.control ∧ (answer reply s).image = s.image ∧ (answer reply s).units = s.units ∧
      (answer reply s).intake = s.intake ∧ (answer reply s).intents = s.intents ∧ (answer reply s).view = s.view ∧
      (answer reply s).bus = s.bus ∧ (answer reply s).peers = s.peers ∧ (answer reply s).plans = s.plans ∧
      (answer reply s).reports = s.reports ∧ (answer reply s).fresh = s.fresh ∧ (answer reply s).pending = s.pending ∧
      (answer reply s).port = { s.port with rdy := true, selection := false, pendingReply := some reply } :=
  ⟨rfl, rfl, rfl, rfl, rfl, rfl, rfl, rfl, rfl, rfl, rfl, rfl, rfl⟩

@[simp] theorem takeEntry_fields (lane : Nat) (e : PlanEntry) (s : State) :
    (takeEntry lane e s).port = s.port ∧ (takeEntry lane e s).control = s.control ∧
      (takeEntry lane e s).image = s.image ∧ (takeEntry lane e s).units = s.units ∧
      (takeEntry lane e s).intake = s.intake ∧ (takeEntry lane e s).intents = s.intents ∧
      (takeEntry lane e s).view = s.view ∧ (takeEntry lane e s).bus = s.bus ∧ (takeEntry lane e s).peers = s.peers ∧
      (takeEntry lane e s).fresh = s.fresh ∧ (takeEntry lane e s).pending = s.pending ∧
      (takeEntry lane e s).plans = { s.plans with
          active := s.plans.active.setEntry lane e,
          lanes := s.plans.lanes.set lane { s.plans.lane lane with pending := none } } ∧
      (takeEntry lane e s).reports = admitted (.laneEntryApplied lane s.plans.generation) s.reports :=
  ⟨rfl, rfl, rfl, rfl, rfl, rfl, rfl, rfl, rfl, rfl, rfl, rfl, rfl⟩

@[simp] theorem copyUnused_fields (im : Image) (st : Plan) (s : State) :
    (copyUnused im st s).port = s.port ∧ (copyUnused im st s).control = s.control ∧
      (copyUnused im st s).image = s.image ∧ (copyUnused im st s).units = s.units ∧
      (copyUnused im st s).intake = s.intake ∧ (copyUnused im st s).intents = s.intents ∧
      (copyUnused im st s).view = s.view ∧ (copyUnused im st s).bus = s.bus ∧ (copyUnused im st s).peers = s.peers ∧
      (copyUnused im st s).reports = s.reports ∧ (copyUnused im st s).fresh = s.fresh ∧
      (copyUnused im st s).pending = s.pending ∧
      (copyUnused im st s).plans = { s.plans with
          active := { s.plans.active with entries := s.plans.active.entries.take im.laneCount ++ st.entries.drop im.laneCount } } :=
  ⟨rfl, rfl, rfl, rfl, rfl, rfl, rfl, rfl, rfl, rfl, rfl, rfl, rfl⟩

@[simp] theorem openIntent_fields (dir : Direction) (tag : Tag) (delta : Quad) (s : State) :
    (openIntent dir tag delta s).port = s.port ∧ (openIntent dir tag delta s).control = s.control ∧
      (openIntent dir tag delta s).image = s.image ∧ (openIntent dir tag delta s).units = s.units ∧
      (openIntent dir tag delta s).intake = s.intake ∧ (openIntent dir tag delta s).view = s.view ∧
      (openIntent dir tag delta s).peers = s.peers ∧ (openIntent dir tag delta s).plans = s.plans ∧
      (openIntent dir tag delta s).reports = s.reports ∧ (openIntent dir tag delta s).fresh = s.fresh ∧
      (openIntent dir tag delta s).pending = s.pending ∧
      (openIntent dir tag delta s).intents =
          ⟨s.intents.open_ ++ [⟨s.intents.nextId, dir, tag, delta, .unannounced⟩], s.intents.nextId⟩ ∧
      (openIntent dir tag delta s).bus = s.bus.join (.intent ⟨s.intents.nextId, dir, delta⟩) :=
  ⟨rfl, rfl, rfl, rfl, rfl, rfl, rfl, rfl, rfl, rfl, rfl, rfl, rfl⟩

@[simp] theorem announce_fields (im : Image) (it : Intent) (s : State) :
    (announce im it s).port = s.port ∧ (announce im it s).control = s.control ∧ (announce im it s).image = s.image ∧
      (announce im it s).units = s.units ∧ (announce im it s).view = s.view ∧ (announce im it s).bus = s.bus ∧
      (announce im it s).peers = s.peers ∧ (announce im it s).plans = s.plans ∧ (announce im it s).fresh = s.fresh ∧
      (announce im it s).pending = s.pending ∧
      (announce im it s).intents = s.intents.setState it.id (.announced 0) ∧
      (announce im it s).intake = s.intake.eraseP (Entry.isPlacingFor it.id) :=
  ⟨rfl, rfl, rfl, rfl, rfl, rfl, rfl, rfl, rfl, rfl, rfl, rfl⟩

@[simp] theorem freeIntent_fields (id : IntentId) (s : State) :
    (freeIntent id s).port = s.port ∧ (freeIntent id s).control = s.control ∧ (freeIntent id s).image = s.image ∧
      (freeIntent id s).units = s.units ∧ (freeIntent id s).intake = s.intake ∧ (freeIntent id s).view = s.view ∧
      (freeIntent id s).bus = s.bus ∧ (freeIntent id s).peers = s.peers ∧ (freeIntent id s).plans = s.plans ∧
      (freeIntent id s).reports = s.reports ∧ (freeIntent id s).fresh = s.fresh ∧
      (freeIntent id s).pending = s.pending ∧
      (freeIntent id s).intents = s.intents.free id :=
  ⟨rfl, rfl, rfl, rfl, rfl, rfl, rfl, rfl, rfl, rfl, rfl, rfl, rfl⟩

@[simp] theorem parkRecord_fields (r : UnitRecord) (s : State) :
    (parkRecord r s).port = s.port ∧ (parkRecord r s).control = s.control ∧ (parkRecord r s).image = s.image ∧
      (parkRecord r s).intake = s.intake ∧ (parkRecord r s).intents = s.intents ∧ (parkRecord r s).view = s.view ∧
      (parkRecord r s).bus = s.bus ∧ (parkRecord r s).peers = s.peers ∧ (parkRecord r s).plans = s.plans ∧
      (parkRecord r s).reports = s.reports ∧ (parkRecord r s).fresh = s.fresh ∧ (parkRecord r s).pending = s.pending ∧
      (parkRecord r s).units = s.units.park r :=
  ⟨rfl, rfl, rfl, rfl, rfl, rfl, rfl, rfl, rfl, rfl, rfl, rfl, rfl⟩

@[simp] theorem returnRecord_fields (r : UnitRecord) (s : State) :
    (returnRecord r s).port = s.port ∧ (returnRecord r s).control = s.control ∧ (returnRecord r s).image = s.image ∧
      (returnRecord r s).intake = s.intake ∧ (returnRecord r s).intents = s.intents ∧
      (returnRecord r s).view = s.view ∧ (returnRecord r s).bus = s.bus ∧ (returnRecord r s).peers = s.peers ∧
      (returnRecord r s).plans = s.plans ∧ (returnRecord r s).reports = s.reports ∧
      (returnRecord r s).fresh = s.fresh ∧ (returnRecord r s).pending = s.pending ∧
      (returnRecord r s).units = s.units.putBack r.unit.tag :=
  ⟨rfl, rfl, rfl, rfl, rfl, rfl, rfl, rfl, rfl, rfl, rfl, rfl, rfl⟩

@[simp] theorem dropDeparture_fields (tag : Tag) (s : State) :
    (dropDeparture tag s).port = s.port ∧ (dropDeparture tag s).control = s.control ∧
      (dropDeparture tag s).image = s.image ∧ (dropDeparture tag s).units = s.units ∧
      (dropDeparture tag s).intents = s.intents ∧ (dropDeparture tag s).view = s.view ∧
      (dropDeparture tag s).bus = s.bus ∧ (dropDeparture tag s).peers = s.peers ∧
      (dropDeparture tag s).plans = s.plans ∧ (dropDeparture tag s).reports = s.reports ∧
      (dropDeparture tag s).fresh = s.fresh ∧ (dropDeparture tag s).pending = s.pending ∧
      (dropDeparture tag s).intake = s.intake.eraseP (Entry.departureOf tag) :=
  ⟨rfl, rfl, rfl, rfl, rfl, rfl, rfl, rfl, rfl, rfl, rfl, rfl, rfl⟩

@[simp] theorem replaceWindow_fields (lo hi : Int) (s : State) :
    (replaceWindow lo hi s).port = s.port ∧ (replaceWindow lo hi s).control = s.control ∧
      (replaceWindow lo hi s).image = s.image ∧ (replaceWindow lo hi s).units = s.units ∧
      (replaceWindow lo hi s).intake = s.intake ∧ (replaceWindow lo hi s).intents = s.intents ∧
      (replaceWindow lo hi s).bus = s.bus ∧ (replaceWindow lo hi s).peers = s.peers ∧
      (replaceWindow lo hi s).plans = s.plans ∧ (replaceWindow lo hi s).reports = s.reports ∧
      (replaceWindow lo hi s).fresh = s.fresh ∧ (replaceWindow lo hi s).pending = s.pending ∧
      (replaceWindow lo hi s).view = { s.view with wMin := lo, wMax := hi } :=
  ⟨rfl, rfl, rfl, rfl, rfl, rfl, rfl, rfl, rfl, rfl, rfl, rfl, rfl⟩

@[simp] theorem updateTaken_fields (f : Entry → Entry) (s : State) :
    (updateTaken f s).port = s.port ∧ (updateTaken f s).control = s.control ∧ (updateTaken f s).image = s.image ∧
      (updateTaken f s).units = s.units ∧ (updateTaken f s).intents = s.intents ∧ (updateTaken f s).view = s.view ∧
      (updateTaken f s).bus = s.bus ∧ (updateTaken f s).peers = s.peers ∧ (updateTaken f s).plans = s.plans ∧
      (updateTaken f s).reports = s.reports ∧ (updateTaken f s).fresh = s.fresh ∧
      (updateTaken f s).pending = s.pending ∧
      (updateTaken f s).intake = updateFirst Entry.takeable f s.intake :=
  ⟨rfl, rfl, rfl, rfl, rfl, rfl, rfl, rfl, rfl, rfl, rfl, rfl, rfl⟩

@[simp] theorem refuseTaken_fields (tag : Tag) (reason : RefusedReason) (s : State) :
    (refuseTaken tag reason s).port = s.port ∧ (refuseTaken tag reason s).control = s.control ∧
      (refuseTaken tag reason s).image = s.image ∧ (refuseTaken tag reason s).units = s.units ∧
      (refuseTaken tag reason s).intents = s.intents ∧ (refuseTaken tag reason s).view = s.view ∧
      (refuseTaken tag reason s).bus = s.bus ∧ (refuseTaken tag reason s).peers = s.peers ∧
      (refuseTaken tag reason s).plans = s.plans ∧ (refuseTaken tag reason s).fresh = s.fresh ∧
      (refuseTaken tag reason s).pending = s.pending ∧
      (refuseTaken tag reason s).intake = s.intake.eraseP Entry.takeable ∧
      (refuseTaken tag reason s).reports = admitted (.refused tag reason) s.reports :=
  ⟨rfl, rfl, rfl, rfl, rfl, rfl, rfl, rfl, rfl, rfl, rfl, rfl, rfl⟩

@[simp] theorem beginTry_fields (s : State) :
    (beginTry s).port = s.port ∧ (beginTry s).image = s.image ∧ (beginTry s).units = s.units ∧
      (beginTry s).intake = s.intake ∧ (beginTry s).intents = s.intents ∧ (beginTry s).view = s.view ∧
      (beginTry s).bus = s.bus ∧ (beginTry s).peers = s.peers ∧ (beginTry s).plans = s.plans ∧
      (beginTry s).reports = s.reports ∧ (beginTry s).fresh = s.fresh ∧ (beginTry s).pending = s.pending ∧
      (beginTry s).control = { s.control with loader := .trying, link := freeLink ++ tryStart } :=
  ⟨rfl, rfl, rfl, rfl, rfl, rfl, rfl, rfl, rfl, rfl, rfl, rfl, rfl⟩

@[simp] theorem leave_fields (panel switch : Bool) (s : State) :
    (leave panel switch s).port = s.port ∧ (leave panel switch s).image = s.image ∧
      (leave panel switch s).intake = s.intake ∧ (leave panel switch s).intents = s.intents ∧
      (leave panel switch s).view = s.view ∧ (leave panel switch s).bus = s.bus ∧
      (leave panel switch s).peers = s.peers ∧ (leave panel switch s).reports = s.reports ∧
      (leave panel switch s).fresh = s.fresh ∧ (leave panel switch s).pending = s.pending ∧
      (leave panel switch s).control = { s.control with
          held := false, loader := .trying, link := freeLink ++ tryStart } ∧
      (leave panel switch s).units = { s.units with lowered := panel } ∧
      (leave panel switch s).plans = { s.plans with switchLevel := switch } :=
  ⟨rfl, rfl, rfl, rfl, rfl, rfl, rfl, rfl, rfl, rfl, rfl, rfl, rfl⟩

@[simp] theorem enterFaulted_fields (code : FaultCode) (s : State) :
    (enterFaulted code s).port = s.port ∧ (enterFaulted code s).image = s.image ∧
      (enterFaulted code s).units = s.units ∧ (enterFaulted code s).intake = s.intake ∧
      (enterFaulted code s).intents = s.intents ∧ (enterFaulted code s).view = s.view ∧
      (enterFaulted code s).bus = s.bus ∧ (enterFaulted code s).peers = s.peers ∧
      (enterFaulted code s).plans = s.plans ∧ (enterFaulted code s).reports = s.reports ∧
      (enterFaulted code s).fresh = s.fresh ∧ (enterFaulted code s).pending = s.pending ∧
      (enterFaulted code s).control = { s.control with station := .faulted, fault := some code, loader := .off } :=
  ⟨rfl, rfl, rfl, rfl, rfl, rfl, rfl, rfl, rfl, rfl, rfl, rfl, rfl⟩

@[simp] theorem enterJoined_fields (s : State) :
    (enterJoined s).port = s.port ∧ (enterJoined s).image = s.image ∧ (enterJoined s).units = s.units ∧
      (enterJoined s).intents = s.intents ∧ (enterJoined s).view = s.view ∧ (enterJoined s).peers = s.peers ∧
      (enterJoined s).plans = s.plans ∧ (enterJoined s).reports = s.reports ∧ (enterJoined s).fresh = s.fresh ∧
      (enterJoined s).pending = s.pending ∧
      (enterJoined s).control = { s.control with station := .joined } ∧
      (enterJoined s).bus = { s.bus.askSummary with heartbeat := some 0 } ∧
      (enterJoined s).intake = s.intake.map Entry.release :=
  ⟨rfl, rfl, rfl, rfl, rfl, rfl, rfl, rfl, rfl, rfl, rfl, rfl, rfl⟩

@[simp] theorem lineJudged_fields (s : State) :
    (lineJudged s).port = s.port ∧ (lineJudged s).control = s.control ∧ (lineJudged s).image = s.image ∧
      (lineJudged s).units = s.units ∧ (lineJudged s).intake = s.intake ∧ (lineJudged s).intents = s.intents ∧
      (lineJudged s).view = s.view ∧ (lineJudged s).peers = s.peers ∧ (lineJudged s).plans = s.plans ∧
      (lineJudged s).reports = s.reports ∧ (lineJudged s).fresh = s.fresh ∧ (lineJudged s).pending = s.pending ∧
      (lineJudged s).bus = { s.bus with line := .judged } :=
  ⟨rfl, rfl, rfl, rfl, rfl, rfl, rfl, rfl, rfl, rfl, rfl, rfl, rfl⟩

@[simp] theorem setSwitch_fields (level : Bool) (s : State) :
    (setSwitch level s).port = s.port ∧ (setSwitch level s).control = s.control ∧
      (setSwitch level s).image = s.image ∧ (setSwitch level s).units = s.units ∧
      (setSwitch level s).intake = s.intake ∧ (setSwitch level s).intents = s.intents ∧
      (setSwitch level s).view = s.view ∧ (setSwitch level s).bus = s.bus ∧ (setSwitch level s).peers = s.peers ∧
      (setSwitch level s).reports = s.reports ∧ (setSwitch level s).fresh = s.fresh ∧
      (setSwitch level s).pending = s.pending ∧
      (setSwitch level s).plans = { s.plans with switchLevel := level } :=
  ⟨rfl, rfl, rfl, rfl, rfl, rfl, rfl, rfl, rfl, rfl, rfl, rfl, rfl⟩

@[simp] theorem joinQueue_fields (ask : Ask) (s : State) :
    (joinQueue ask s).port = s.port ∧ (joinQueue ask s).control = s.control ∧ (joinQueue ask s).image = s.image ∧
      (joinQueue ask s).units = s.units ∧ (joinQueue ask s).intents = s.intents ∧ (joinQueue ask s).view = s.view ∧
      (joinQueue ask s).bus = s.bus ∧ (joinQueue ask s).peers = s.peers ∧ (joinQueue ask s).plans = s.plans ∧
      (joinQueue ask s).reports = s.reports ∧ (joinQueue ask s).fresh = s.fresh ∧
      (joinQueue ask s).pending = s.pending ∧
      (joinQueue ask s).intake = s.intake ++ [⟨ask, .waiting, 0, false⟩] :=
  ⟨rfl, rfl, rfl, rfl, rfl, rfl, rfl, rfl, rfl, rfl, rfl, rfl, rfl⟩

@[simp] theorem beginAttempt_fields (im : Image) (n : Notice) (s : State) :
    (beginAttempt im n s).port = s.port ∧ (beginAttempt im n s).control = s.control ∧
      (beginAttempt im n s).image = s.image ∧ (beginAttempt im n s).units = s.units ∧
      (beginAttempt im n s).intake = s.intake ∧ (beginAttempt im n s).intents = s.intents ∧
      (beginAttempt im n s).view = s.view ∧ (beginAttempt im n s).peers = s.peers ∧
      (beginAttempt im n s).plans = s.plans ∧ (beginAttempt im n s).reports = s.reports ∧
      (beginAttempt im n s).fresh = s.fresh ∧ (beginAttempt im n s).pending = s.pending ∧
      (beginAttempt im n s).bus = { s.bus with
          frontSeq := some s.bus.attemptSeq, sending := some (attemptFrame s im n).bytes, line := .running } :=
  ⟨rfl, rfl, rfl, rfl, rfl, rfl, rfl, rfl, rfl, rfl, rfl, rfl, rfl⟩

@[simp] theorem collide_fields (s : State) :
    (collide s).port = s.port ∧ (collide s).control = s.control ∧ (collide s).image = s.image ∧
      (collide s).units = s.units ∧ (collide s).intake = s.intake ∧ (collide s).intents = s.intents ∧
      (collide s).view = s.view ∧ (collide s).peers = s.peers ∧ (collide s).plans = s.plans ∧
      (collide s).reports = s.reports ∧ (collide s).fresh = s.fresh ∧ (collide s).pending = s.pending ∧
      (collide s).bus = { s.bus with
          sending := none, attempts := min 255 (s.bus.attempts + 1),
          refresh := if s.bus.summarySending then false else s.bus.refresh } :=
  ⟨rfl, rfl, rfl, rfl, rfl, rfl, rfl, rfl, rfl, rfl, rfl, rfl, rfl⟩

end Sys2Proof.Machine
end

