-- ==== Sys2Proof/Laws/Frames.lean ====
section
/-! SUPPORT. What each shared operation that chooses between cases leaves as it was: a conjunction over the fields, which the
simplifier takes apart into one rewriting rule per field. -/

namespace Sys2Proof.Machine

@[simp] theorem refuseMarked_frame (s : State) :
    (refuseMarked s).port = s.port ∧ (refuseMarked s).control = s.control ∧ (refuseMarked s).image = s.image ∧
      (refuseMarked s).units = s.units ∧ (refuseMarked s).intents = s.intents ∧ (refuseMarked s).view = s.view ∧
      (refuseMarked s).bus = s.bus ∧ (refuseMarked s).peers = s.peers ∧ (refuseMarked s).plans = s.plans ∧
      (refuseMarked s).fresh = s.fresh ∧ (refuseMarked s).pending = s.pending := by
  simp only [refuseMarked]
  repeat' split
  all_goals simp

@[simp] theorem settle_frame (s : State) :
    (settle s).port = s.port ∧ (settle s).control = s.control ∧ (settle s).image = s.image ∧
      (settle s).units = s.units ∧ (settle s).intake = s.intake ∧ (settle s).intents = s.intents ∧
      (settle s).bus = s.bus ∧ (settle s).peers = s.peers ∧ (settle s).plans = s.plans ∧ (settle s).fresh = s.fresh ∧
      (settle s).pending = s.pending := by
  simp only [settle]
  repeat' split
  all_goals simp

@[simp] theorem takeIn_frame (s : State) :
    (takeIn s).control = s.control ∧ (takeIn s).image = s.image ∧ (takeIn s).units = s.units ∧
      (takeIn s).intake = s.intake ∧ (takeIn s).intents = s.intents ∧ (takeIn s).view = s.view ∧
      (takeIn s).bus = s.bus ∧ (takeIn s).peers = s.peers ∧ (takeIn s).plans = s.plans ∧
      (takeIn s).reports = s.reports ∧ (takeIn s).fresh = s.fresh ∧ (takeIn s).pending = s.pending := by
  simp only [takeIn]
  repeat' split
  all_goals simp

@[simp] theorem compareNearFull_frame (im : Image) (lane : Nat) (s : State) :
    (compareNearFull im lane s).port = s.port ∧ (compareNearFull im lane s).control = s.control ∧
      (compareNearFull im lane s).image = s.image ∧ (compareNearFull im lane s).units = s.units ∧
      (compareNearFull im lane s).intake = s.intake ∧ (compareNearFull im lane s).intents = s.intents ∧
      (compareNearFull im lane s).view = s.view ∧ (compareNearFull im lane s).bus = s.bus ∧
      (compareNearFull im lane s).peers = s.peers ∧ (compareNearFull im lane s).fresh = s.fresh ∧
      (compareNearFull im lane s).pending = s.pending := by
  simp only [compareNearFull]
  repeat' split
  all_goals simp

@[simp] theorem insertRecord_frame (im : Image) (r : UnitRecord) (s : State) :
    (insertRecord im r s).port = s.port ∧ (insertRecord im r s).control = s.control ∧
      (insertRecord im r s).image = s.image ∧ (insertRecord im r s).intake = s.intake ∧
      (insertRecord im r s).intents = s.intents ∧ (insertRecord im r s).view = s.view ∧
      (insertRecord im r s).bus = s.bus ∧ (insertRecord im r s).peers = s.peers ∧
      (insertRecord im r s).fresh = s.fresh ∧ (insertRecord im r s).pending = s.pending := by
  simp only [insertRecord]
  all_goals simp

@[simp] theorem removeRecord_frame (im : Image) (r : UnitRecord) (s : State) :
    (removeRecord im r s).port = s.port ∧ (removeRecord im r s).control = s.control ∧
      (removeRecord im r s).image = s.image ∧ (removeRecord im r s).intake = s.intake ∧
      (removeRecord im r s).intents = s.intents ∧ (removeRecord im r s).view = s.view ∧
      (removeRecord im r s).bus = s.bus ∧ (removeRecord im r s).peers = s.peers ∧
      (removeRecord im r s).fresh = s.fresh ∧ (removeRecord im r s).pending = s.pending := by
  simp only [removeRecord]
  all_goals simp

@[simp] theorem compareChanged_frame (im : Image) (before : PlanStore) (lanes : List Nat) (s : State) :
    (compareChanged im before lanes s).port = s.port ∧ (compareChanged im before lanes s).control = s.control ∧
      (compareChanged im before lanes s).image = s.image ∧ (compareChanged im before lanes s).units = s.units ∧
      (compareChanged im before lanes s).intake = s.intake ∧ (compareChanged im before lanes s).intents = s.intents ∧
      (compareChanged im before lanes s).view = s.view ∧ (compareChanged im before lanes s).bus = s.bus ∧
      (compareChanged im before lanes s).peers = s.peers ∧ (compareChanged im before lanes s).fresh = s.fresh ∧
      (compareChanged im before lanes s).pending = s.pending := by
  induction lanes generalizing s with
  | nil => simp [compareChanged]
  | cons lane rest ih =>
    simp only [compareChanged]
    split <;> simp [ih]

@[simp] theorem switched_frame (new : List (Nat × PlanEntry)) (dflt : Option Nat) (s : State) :
    (switched new dflt s).port = s.port ∧ (switched new dflt s).control = s.control ∧
      (switched new dflt s).image = s.image ∧ (switched new dflt s).units = s.units ∧
      (switched new dflt s).intake = s.intake ∧ (switched new dflt s).intents = s.intents ∧
      (switched new dflt s).view = s.view ∧ (switched new dflt s).bus = s.bus ∧ (switched new dflt s).peers = s.peers ∧
      (switched new dflt s).fresh = s.fresh ∧ (switched new dflt s).pending = s.pending := by
  simp only [switched]
  all_goals simp

@[simp] theorem applyPending_frame (im : Image) (lane : Nat) (s : State) :
    (applyPending im lane s).port = s.port ∧ (applyPending im lane s).control = s.control ∧
      (applyPending im lane s).image = s.image ∧ (applyPending im lane s).units = s.units ∧
      (applyPending im lane s).intake = s.intake ∧ (applyPending im lane s).intents = s.intents ∧
      (applyPending im lane s).view = s.view ∧ (applyPending im lane s).bus = s.bus ∧
      (applyPending im lane s).peers = s.peers ∧ (applyPending im lane s).fresh = s.fresh ∧
      (applyPending im lane s).pending = s.pending := by
  simp only [applyPending]
  repeat' split
  all_goals simp

@[simp] theorem switchOver_frame (im : Image) (new : List (Nat × PlanEntry)) (dflt : Option Nat) (s : State) :
    (switchOver im new dflt s).port = s.port ∧ (switchOver im new dflt s).control = s.control ∧
      (switchOver im new dflt s).image = s.image ∧ (switchOver im new dflt s).units = s.units ∧
      (switchOver im new dflt s).intents = s.intents ∧ (switchOver im new dflt s).view = s.view ∧
      (switchOver im new dflt s).bus = s.bus ∧ (switchOver im new dflt s).peers = s.peers ∧
      (switchOver im new dflt s).fresh = s.fresh ∧ (switchOver im new dflt s).pending = s.pending := by
  simp only [switchOver]
  all_goals simp

@[simp] theorem switchFromStaged_frame (im : Image) (which : Staged) (s : State) :
    (switchFromStaged im which s).port = s.port ∧ (switchFromStaged im which s).control = s.control ∧
      (switchFromStaged im which s).image = s.image ∧ (switchFromStaged im which s).units = s.units ∧
      (switchFromStaged im which s).intents = s.intents ∧ (switchFromStaged im which s).view = s.view ∧
      (switchFromStaged im which s).bus = s.bus ∧ (switchFromStaged im which s).peers = s.peers ∧
      (switchFromStaged im which s).fresh = s.fresh ∧ (switchFromStaged im which s).pending = s.pending := by
  simp only [switchFromStaged]
  all_goals simp

@[simp] theorem freed_frame (im : Image) (lane : Nat) (s : State) :
    (freed im lane s).port = s.port ∧ (freed im lane s).control = s.control ∧ (freed im lane s).image = s.image ∧
      (freed im lane s).units = s.units ∧ (freed im lane s).intents = s.intents ∧ (freed im lane s).bus = s.bus ∧
      (freed im lane s).peers = s.peers ∧ (freed im lane s).fresh = s.fresh ∧ (freed im lane s).pending = s.pending := by
  simp only [freed]
  all_goals simp

@[simp] theorem handOn_frame (n : Notice) (s : State) :
    (handOn n s).port = s.port ∧ (handOn n s).control = s.control ∧ (handOn n s).image = s.image ∧
      (handOn n s).units = s.units ∧ (handOn n s).intake = s.intake ∧ (handOn n s).intents = s.intents ∧
      (handOn n s).view = s.view ∧ (handOn n s).peers = s.peers ∧ (handOn n s).plans = s.plans ∧
      (handOn n s).reports = s.reports ∧ (handOn n s).fresh = s.fresh ∧ (handOn n s).pending = s.pending := by
  simp only [handOn]
  repeat' split
  all_goals simp

@[simp] theorem cancelRecord_frame (im : Image) (it : Intent) (s : State) :
    (cancelRecord im it s).port = s.port ∧ (cancelRecord im it s).control = s.control ∧
      (cancelRecord im it s).image = s.image ∧ (cancelRecord im it s).intake = s.intake ∧
      (cancelRecord im it s).intents = s.intents ∧ (cancelRecord im it s).view = s.view ∧
      (cancelRecord im it s).bus = s.bus ∧ (cancelRecord im it s).peers = s.peers ∧
      (cancelRecord im it s).fresh = s.fresh ∧ (cancelRecord im it s).pending = s.pending := by
  simp only [cancelRecord]
  repeat' split
  all_goals simp

@[simp] theorem cancelSteps_frame (im : Image) (it : Intent) (s : State) :
    (cancelSteps im it s).port = s.port ∧ (cancelSteps im it s).control = s.control ∧
      (cancelSteps im it s).image = s.image ∧ (cancelSteps im it s).view = s.view ∧
      (cancelSteps im it s).peers = s.peers ∧ (cancelSteps im it s).fresh = s.fresh ∧
      (cancelSteps im it s).pending = s.pending := by
  simp only [cancelSteps]
  all_goals simp

@[simp] theorem cancelIntent_frame (im : Image) (it : Intent) (s : State) :
    (cancelIntent im it s).port = s.port ∧ (cancelIntent im it s).control = s.control ∧
      (cancelIntent im it s).image = s.image ∧ (cancelIntent im it s).peers = s.peers ∧
      (cancelIntent im it s).fresh = s.fresh ∧ (cancelIntent im it s).pending = s.pending := by
  simp only [cancelIntent]
  all_goals simp

@[simp] theorem closeParked_frame (im : Image) (r : UnitRecord) (it : Intent) (s : State) :
    (closeParked im r it s).port = s.port ∧ (closeParked im r it s).control = s.control ∧
      (closeParked im r it s).image = s.image ∧ (closeParked im r it s).peers = s.peers ∧
      (closeParked im r it s).fresh = s.fresh ∧ (closeParked im r it s).pending = s.pending := by
  simp only [closeParked]
  all_goals simp

@[simp] theorem closeAbandoned_frame (im : Image) (r : UnitRecord) (it : Intent) (s : State) :
    (closeAbandoned im r it s).port = s.port ∧ (closeAbandoned im r it s).control = s.control ∧
      (closeAbandoned im r it s).image = s.image ∧ (closeAbandoned im r it s).peers = s.peers ∧
      (closeAbandoned im r it s).fresh = s.fresh ∧ (closeAbandoned im r it s).pending = s.pending := by
  simp only [closeAbandoned]
  all_goals simp

@[simp] theorem closeDeparted_frame (im : Image) (r : UnitRecord) (it : Intent) (s : State) :
    (closeDeparted im r it s).port = s.port ∧ (closeDeparted im r it s).control = s.control ∧
      (closeDeparted im r it s).image = s.image ∧ (closeDeparted im r it s).peers = s.peers ∧
      (closeDeparted im r it s).fresh = s.fresh ∧ (closeDeparted im r it s).pending = s.pending := by
  simp only [closeDeparted]
  all_goals simp

@[simp] theorem closeStayed_frame (im : Image) (r : UnitRecord) (it : Intent) (s : State) :
    (closeStayed im r it s).port = s.port ∧ (closeStayed im r it s).control = s.control ∧
      (closeStayed im r it s).image = s.image ∧ (closeStayed im r it s).peers = s.peers ∧
      (closeStayed im r it s).fresh = s.fresh ∧ (closeStayed im r it s).pending = s.pending := by
  simp only [closeStayed]
  all_goals simp

@[simp] theorem summaryForced_frame (s : State) :
    (summaryForced s).port = s.port ∧ (summaryForced s).control = s.control ∧ (summaryForced s).image = s.image ∧
      (summaryForced s).units = s.units ∧ (summaryForced s).intake = s.intake ∧ (summaryForced s).intents = s.intents ∧
      (summaryForced s).view = s.view ∧ (summaryForced s).peers = s.peers ∧ (summaryForced s).plans = s.plans ∧
      (summaryForced s).reports = s.reports ∧ (summaryForced s).fresh = s.fresh ∧
      (summaryForced s).pending = s.pending := by
  simp only [summaryForced]
  repeat' split
  all_goals simp

@[simp] theorem forceOut_frame (im : Image) (r : UnitRecord) (s : State) :
    (forceOut im r s).port = s.port ∧ (forceOut im r s).control = s.control ∧ (forceOut im r s).image = s.image ∧
      (forceOut im r s).intents = s.intents ∧ (forceOut im r s).view = s.view ∧ (forceOut im r s).peers = s.peers ∧
      (forceOut im r s).fresh = s.fresh ∧ (forceOut im r s).pending = s.pending := by
  simp only [forceOut]
  all_goals simp

@[simp] theorem forceParked_frame (im : Image) (r : UnitRecord) (s : State) :
    (forceParked im r s).port = s.port ∧ (forceParked im r s).control = s.control ∧
      (forceParked im r s).image = s.image ∧ (forceParked im r s).intents = s.intents ∧
      (forceParked im r s).peers = s.peers ∧ (forceParked im r s).fresh = s.fresh ∧
      (forceParked im r s).pending = s.pending := by
  simp only [forceParked]
  all_goals simp

@[simp] theorem forceUnannounced_frame (im : Image) (r : UnitRecord) (it : Intent) (s : State) :
    (forceUnannounced im r it s).port = s.port ∧ (forceUnannounced im r it s).control = s.control ∧
      (forceUnannounced im r it s).image = s.image ∧ (forceUnannounced im r it s).peers = s.peers ∧
      (forceUnannounced im r it s).fresh = s.fresh ∧ (forceUnannounced im r it s).pending = s.pending := by
  simp only [forceUnannounced]
  all_goals simp

@[simp] theorem applyPlace_frame (im : Image) (c : Candidate) (s : State) :
    (applyPlace im c s).port = s.port ∧ (applyPlace im c s).control = s.control ∧
      (applyPlace im c s).image = s.image ∧ (applyPlace im c s).peers = s.peers ∧ (applyPlace im c s).fresh = s.fresh ∧
      (applyPlace im c s).pending = s.pending := by
  simp only [applyPlace]
  all_goals simp

@[simp] theorem applyArrival_frame (im : Image) (unit : UnitId) (s : State) :
    (applyArrival im unit s).port = s.port ∧ (applyArrival im unit s).control = s.control ∧
      (applyArrival im unit s).image = s.image ∧ (applyArrival im unit s).peers = s.peers ∧
      (applyArrival im unit s).fresh = s.fresh ∧ (applyArrival im unit s).pending = s.pending := by
  simp only [applyArrival]
  repeat' split
  all_goals simp

@[simp] theorem applyRemove_frame (r : UnitRecord) (s : State) :
    (applyRemove r s).port = s.port ∧ (applyRemove r s).control = s.control ∧ (applyRemove r s).image = s.image ∧
      (applyRemove r s).peers = s.peers ∧ (applyRemove r s).plans = s.plans ∧ (applyRemove r s).fresh = s.fresh ∧
      (applyRemove r s).pending = s.pending := by
  simp only [applyRemove]
  all_goals simp

@[simp] theorem applyDeparture_frame (im : Image) (r : UnitRecord) (s : State) :
    (applyDeparture im r s).port = s.port ∧ (applyDeparture im r s).control = s.control ∧
      (applyDeparture im r s).image = s.image ∧ (applyDeparture im r s).peers = s.peers ∧
      (applyDeparture im r s).plans = s.plans ∧ (applyDeparture im r s).fresh = s.fresh ∧
      (applyDeparture im r s).pending = s.pending := by
  simp only [applyDeparture]
  repeat' split
  all_goals simp

@[simp] theorem enterListening_frame (im : Image) (s : State) :
    (enterListening im s).port = s.port ∧ (enterListening im s).units = s.units ∧
      (enterListening im s).intake = s.intake ∧ (enterListening im s).intents = s.intents ∧
      (enterListening im s).bus = s.bus ∧ (enterListening im s).fresh = s.fresh ∧
      (enterListening im s).pending = s.pending := by
  simp only [enterListening]
  all_goals simp

@[simp] theorem listenOver_frame (s : State) :
    (listenOver s).port = s.port ∧ (listenOver s).image = s.image ∧ (listenOver s).units = s.units ∧
      (listenOver s).intents = s.intents ∧ (listenOver s).view = s.view ∧ (listenOver s).peers = s.peers ∧
      (listenOver s).plans = s.plans ∧ (listenOver s).reports = s.reports ∧ (listenOver s).fresh = s.fresh ∧
      (listenOver s).pending = s.pending := by
  simp only [listenOver]
  repeat' split
  all_goals simp

@[simp] theorem enterQuiet_frame (im : Image) (s : State) :
    (enterQuiet im s).port = s.port ∧ (enterQuiet im s).image = s.image ∧ (enterQuiet im s).peers = s.peers ∧
      (enterQuiet im s).fresh = s.fresh ∧ (enterQuiet im s).pending = s.pending := by
  simp only [enterQuiet]
  repeat' split
  all_goals simp

@[simp] theorem postIf_frame (r : Option Report) (s : State) :
    (postIf r s).port = s.port ∧ (postIf r s).control = s.control ∧ (postIf r s).image = s.image ∧
      (postIf r s).units = s.units ∧ (postIf r s).intake = s.intake ∧ (postIf r s).intents = s.intents ∧
      (postIf r s).view = s.view ∧ (postIf r s).bus = s.bus ∧ (postIf r s).peers = s.peers ∧
      (postIf r s).plans = s.plans ∧ (postIf r s).fresh = s.fresh ∧ (postIf r s).pending = s.pending := by
  simp only [postIf]
  repeat' split
  all_goals simp

@[simp] theorem putPeer_frame (p q : Peer) (s : State) :
    (putPeer p q s).port = s.port ∧ (putPeer p q s).control = s.control ∧ (putPeer p q s).image = s.image ∧
      (putPeer p q s).units = s.units ∧ (putPeer p q s).intents = s.intents ∧ (putPeer p q s).bus = s.bus ∧
      (putPeer p q s).plans = s.plans ∧ (putPeer p q s).fresh = s.fresh ∧ (putPeer p q s).pending = s.pending := by
  simp only [putPeer]
  repeat' split
  all_goals simp

@[simp] theorem takeStray_frame (n : StationNo) (s : State) :
    (takeStray n s).port = s.port ∧ (takeStray n s).control = s.control ∧ (takeStray n s).image = s.image ∧
      (takeStray n s).units = s.units ∧ (takeStray n s).intake = s.intake ∧ (takeStray n s).intents = s.intents ∧
      (takeStray n s).view = s.view ∧ (takeStray n s).bus = s.bus ∧ (takeStray n s).plans = s.plans ∧
      (takeStray n s).fresh = s.fresh ∧ (takeStray n s).pending = s.pending := by
  simp only [takeStray]
  repeat' split
  all_goals simp

@[simp] theorem takeFrame_frame (im : Image) (f : Frame) (s : State) :
    (takeFrame im f s).port = s.port ∧ (takeFrame im f s).image = s.image ∧ (takeFrame im f s).fresh = s.fresh ∧
      (takeFrame im f s).pending = s.pending := by
  simp only [takeFrame]
  repeat' split
  all_goals simp

@[simp] theorem putWindow_frame (lo hi : Int) (s : State) :
    (putWindow lo hi s).port = s.port ∧ (putWindow lo hi s).control = s.control ∧
      (putWindow lo hi s).image = s.image ∧ (putWindow lo hi s).units = s.units ∧
      (putWindow lo hi s).intents = s.intents ∧ (putWindow lo hi s).bus = s.bus ∧ (putWindow lo hi s).peers = s.peers ∧
      (putWindow lo hi s).plans = s.plans ∧ (putWindow lo hi s).fresh = s.fresh ∧
      (putWindow lo hi s).pending = s.pending := by
  simp only [putWindow]
  all_goals simp

@[simp] theorem switchAsserted_frame (s : State) :
    (switchAsserted s).port = s.port ∧ (switchAsserted s).control = s.control ∧ (switchAsserted s).image = s.image ∧
      (switchAsserted s).units = s.units ∧ (switchAsserted s).intents = s.intents ∧ (switchAsserted s).view = s.view ∧
      (switchAsserted s).bus = s.bus ∧ (switchAsserted s).peers = s.peers ∧ (switchAsserted s).fresh = s.fresh ∧
      (switchAsserted s).pending = s.pending := by
  simp only [switchAsserted]
  repeat' split
  all_goals simp

@[simp] theorem postConflicts_frame (im : Image) (lanes : List Nat) (s : State) :
    (postConflicts im lanes s).port = s.port ∧ (postConflicts im lanes s).control = s.control ∧
      (postConflicts im lanes s).image = s.image ∧ (postConflicts im lanes s).units = s.units ∧
      (postConflicts im lanes s).intake = s.intake ∧ (postConflicts im lanes s).intents = s.intents ∧
      (postConflicts im lanes s).view = s.view ∧ (postConflicts im lanes s).bus = s.bus ∧
      (postConflicts im lanes s).peers = s.peers ∧ (postConflicts im lanes s).plans = s.plans ∧
      (postConflicts im lanes s).fresh = s.fresh ∧ (postConflicts im lanes s).pending = s.pending := by
  induction lanes generalizing s with
  | nil => simp [postConflicts]
  | cons lane rest ih =>
    simp only [postConflicts]
    split <;> simp [ih]

@[simp] theorem panelChanged_frame (lowered : Bool) (s : State) :
    (panelChanged lowered s).port = s.port ∧ (panelChanged lowered s).control = s.control ∧
      (panelChanged lowered s).image = s.image ∧ (panelChanged lowered s).intents = s.intents ∧
      (panelChanged lowered s).view = s.view ∧ (panelChanged lowered s).bus = s.bus ∧
      (panelChanged lowered s).peers = s.peers ∧ (panelChanged lowered s).plans = s.plans ∧
      (panelChanged lowered s).fresh = s.fresh ∧ (panelChanged lowered s).pending = s.pending := by
  simp only [panelChanged]
  repeat' split
  all_goals simp

@[simp] theorem tryFailed_frame (lost : Unacknowledged) (s : State) :
    (tryFailed lost s).port = s.port ∧ (tryFailed lost s).image = s.image ∧ (tryFailed lost s).units = s.units ∧
      (tryFailed lost s).intake = s.intake ∧ (tryFailed lost s).intents = s.intents ∧
      (tryFailed lost s).view = s.view ∧ (tryFailed lost s).bus = s.bus ∧ (tryFailed lost s).peers = s.peers ∧
      (tryFailed lost s).plans = s.plans ∧ (tryFailed lost s).reports = s.reports ∧
      (tryFailed lost s).fresh = s.fresh ∧ (tryFailed lost s).pending = s.pending := by
  simp only [tryFailed]
  repeat' split
  all_goals simp

@[simp] theorem loadEnd_frame (image : List Byte) (s : State) :
    (loadEnd image s).port = s.port ∧ (loadEnd image s).units = s.units ∧ (loadEnd image s).intake = s.intake ∧
      (loadEnd image s).intents = s.intents ∧ (loadEnd image s).bus = s.bus ∧ (loadEnd image s).pending = s.pending := by
  simp only [loadEnd]
  repeat' split
  all_goals simp

@[simp] theorem waitOver_frame (im : Image) (tag : Tag) (e : Entry) (s : State) :
    (waitOver im tag e s).port = s.port ∧ (waitOver im tag e s).control = s.control ∧
      (waitOver im tag e s).image = s.image ∧ (waitOver im tag e s).units = s.units ∧
      (waitOver im tag e s).intents = s.intents ∧ (waitOver im tag e s).view = s.view ∧
      (waitOver im tag e s).bus = s.bus ∧ (waitOver im tag e s).peers = s.peers ∧
      (waitOver im tag e s).plans = s.plans ∧ (waitOver im tag e s).fresh = s.fresh ∧
      (waitOver im tag e s).pending = s.pending := by
  simp only [waitOver]
  repeat' split
  all_goals simp

@[simp] theorem startAttempt_frame (im : Image) (n : Notice) (s : State) :
    (startAttempt im n s).port = s.port ∧ (startAttempt im n s).control = s.control ∧
      (startAttempt im n s).image = s.image ∧ (startAttempt im n s).peers = s.peers ∧
      (startAttempt im n s).fresh = s.fresh ∧ (startAttempt im n s).pending = s.pending := by
  simp only [startAttempt]
  repeat' split
  all_goals simp

@[simp] theorem complete_frame (im : Image) (n : Notice) (rest : List Notice) (s : State) :
    (complete im n rest s).port = s.port ∧ (complete im n rest s).control = s.control ∧
      (complete im n rest s).image = s.image ∧ (complete im n rest s).units = s.units ∧
      (complete im n rest s).view = s.view ∧ (complete im n rest s).peers = s.peers ∧
      (complete im n rest s).plans = s.plans ∧ (complete im n rest s).fresh = s.fresh ∧
      (complete im n rest s).pending = s.pending := by
  simp only [complete]
  repeat' split
  all_goals simp

end Sys2Proof.Machine
end

