-- ==== Sys2Proof/Laws/Line.lean ====
section
/-! SUPPORT. Bits on the line: the length of a frame, the round trip of a byte through its levels, and the arbitration of two
stations that begin together. -/

namespace Sys2Proof.Machine

@[simp] theorem Level.bit_ofBit (b : Bool) : (Level.ofBit b).bit = b := by cases b <;> rfl

@[simp] theorem Level.over_recessive (a : Level) : a.over .recessive = a := by cases a <;> rfl

@[simp] theorem Level.over_dominant (a : Level) : a.over .dominant = .dominant := by cases a <;> rfl

@[simp] theorem Level.over_self (a : Level) : a.over a = a := by cases a <;> rfl

@[simp] theorem byteLevels_length (b : Byte) : (byteLevels b).length = 10 := rfl

theorem frameLevels_length (bytes : List Byte) : (frameLevels bytes).length = 10 * bytes.length := by
  induction bytes with
  | nil => rfl
  | cons b bytes ih =>
    have h : frameLevels (b :: bytes) = byteLevels b ++ frameLevels bytes := rfl
    rw [h, List.length_append, ih, byteLevels_length, List.length_cons]
    omega

theorem byteOfBits_msbFirst (b : Byte) : byteOfBits (msbFirst b) = b := by
  revert b
  decide +kernel

/-- A byte's levels at the front of a run are sampled as that byte, its stop bit recessive. -/
theorem sampled_byteLevels (n : Nat) (b : Byte) (rest : List Level) :
    sampled (n + 1) (byteLevels b ++ rest) = ⟨b, true⟩ :: sampled n rest := by
  have h : byteOfBits ((List.range 8).map fun i => ((((msbFirst b).map Level.ofBit ++ [Level.recessive]) ++ rest).getD i
      .recessive).bit) = b := by
    have : ((List.range 8).map fun i => ((((msbFirst b).map Level.ofBit ++ [Level.recessive]) ++ rest).getD i
        .recessive).bit) = msbFirst b := by
      simp [msbFirst, List.range_succ, List.range_zero]
    rw [this, byteOfBits_msbFirst]
  simp only [byteLevels, List.cons_append, sampled]
  rw [h]
  rfl

/-- A frame's levels are sampled as its bytes, every stop bit recessive, whatever follows. -/
theorem sampled_frameLevels (bytes : List Byte) (rest : List Level) :
    sampled bytes.length (frameLevels bytes ++ rest) = bytes.map fun b => ⟨b, true⟩ := by
  induction bytes with
  | nil => rfl
  | cons b bytes ih =>
    have h : frameLevels (b :: bytes) ++ rest = byteLevels b ++ (frameLevels bytes ++ rest) := by
      simp [frameLevels]
    rw [h, List.length_cons, sampled_byteLevels, ih, List.map_cons]

/-- Activity on the line starts every wait again: after a frame only the rest that follows its last dominant bit counts. -/
theorem idleBitTimes_after_dominant (before : List Level) (n : Nat) :
    idleBitTimes (before ++ .dominant :: List.replicate n .recessive) = n := by
  have h : (before ++ Level.dominant :: List.replicate n .recessive).reverse =
      List.replicate n .recessive ++ .dominant :: before.reverse := by simp
  rw [idleBitTimes, h, List.takeWhile_append_of_pos (by intro l hl; simp [List.eq_of_mem_replicate hl])]
  simp

/-- Two stations that begin together are parted at the first bit where they differ: the one that sends the recessive bit collides
there, and up to there the other one sees no difference. -/
theorem arbitration (same a b : List Level) :
    firstDifference (same ++ .recessive :: b) (together (same ++ .recessive :: b) (same ++ .dominant :: a)) = some same.length ∧
    firstDifference (same ++ [.dominant]) (together (same ++ [.dominant]) (same ++ [.recessive])) = none := by
  induction same with
  | nil => exact ⟨rfl, rfl⟩
  | cons x same ih =>
    simp only [firstDifference, together, List.cons_append, List.zipWith_cons_cons, List.zip_cons_cons, Level.over_self,
      List.findIdx?_cons, List.length_cons] at ih ⊢
    simp [ih.1, ih.2]

end Sys2Proof.Machine
end

