-- ==== Sys2Proof/Laws/Link.lean ====
section
/-! SUPPORT. The lines of the configuration memory's link: what each operation puts on them, and that the conditions and bits read from
the lines are those of the operations. -/

namespace Sys2Proof.Machine

@[simp] theorem ninePulses_length (b : Byte) (acknowledge : Bool) : (ninePulses b acknowledge).length = 9 := rfl

@[simp] theorem LinkOp.lineBits_length (op : LinkOp) (memory : List Bool) :
    (op.lineBits memory).length = op.loaderBits.length := by simp [LinkOp.lineBits]

@[simp] theorem linkLines_cons (clockHigh : Bool) (op : LinkOp) (memory : List Bool) (rest : List (LinkOp × List Bool)) :
    linkLines clockHigh ((op, memory) :: rest) = op.lines clockHigh memory ++ linkLines op.leavesHigh rest := rfl

/-- The conditions and bits of one operation. -/
def LinkOp.events (op : LinkOp) (memory : List Bool) : List LinkEvent :=
  match op with
  | .start => [.start]
  | .stop => [.stop]
  | .pulses _ | .send _ | .takeAcked _ | .takeLast => (op.lineBits memory).map .bit

/-- One pulse is read as its bit, whatever stood on the lines before it. -/
theorem linkEvents_clockPulse (before : LinkMoment) (data : Bool) (rest : List LinkMoment) :
    linkEvents (before :: (clockPulse data ++ rest)) = .bit data :: linkEvents (⟨false, data⟩ :: rest) := by
  simp [clockPulse, linkEvents]

/-- So many pulses are read as their bits. -/
theorem linkEvents_pulses (bits : List Bool) (before : LinkMoment) (rest : List LinkMoment) :
    ∃ last : LinkMoment, linkEvents (before :: (bits.flatMap clockPulse ++ rest)) =
      bits.map .bit ++ linkEvents (last :: rest) := by
  induction bits generalizing before with
  | nil => exact ⟨before, rfl⟩
  | cons bit bits ih =>
    obtain ⟨last, h⟩ := ih ⟨false, bit⟩
    exact ⟨last, by rw [List.flatMap_cons, List.append_assoc, linkEvents_clockPulse, h]; rfl⟩

/-- One operation is read as its conditions and bits, and leaves the lines at rest where it leaves the clock high. -/
theorem linkEvents_lines (op : LinkOp) (memory : List Bool) (clockHigh : Bool) (before : LinkMoment) (rest : List LinkMoment)
    (h : clockHigh = true → before = ⟨true, true⟩) :
    ∃ last : LinkMoment, (op.leavesHigh = true → last = ⟨true, true⟩) ∧
      linkEvents (before :: (op.lines clockHigh memory ++ rest)) = op.events memory ++ linkEvents (last :: rest) := by
  cases op with
  | start =>
    refine ⟨⟨false, false⟩, by simp [LinkOp.leavesHigh], ?_⟩
    cases clockHigh
    · simp [LinkOp.lines, startCondition, linkEvents, LinkOp.events]
    · simp [LinkOp.lines, startCondition, linkEvents, LinkOp.events, h rfl]
  | stop => exact ⟨⟨true, true⟩, fun _ => rfl, by simp [LinkOp.lines, stopCondition, linkEvents, LinkOp.events]⟩
  | pulses count | send b | takeAcked count | takeLast =>
    obtain ⟨last, hl⟩ := linkEvents_pulses (LinkOp.lineBits _ memory) before rest
    exact ⟨last, by simp [LinkOp.leavesHigh], hl⟩

/-- The conditions and bits read from the lines are those of the operations, in their order. -/
theorem linkEvents_linkLines (parts : List (LinkOp × List Bool)) (clockHigh : Bool) (before : LinkMoment)
    (h : clockHigh = true → before = ⟨true, true⟩) :
    linkEvents (before :: linkLines clockHigh parts) = parts.flatMap fun x => x.1.events x.2 := by
  induction parts generalizing clockHigh before with
  | nil => rfl
  | cons x parts ih =>
    obtain ⟨last, hl, he⟩ := linkEvents_lines x.1 x.2 clockHigh before (linkLines x.1.leavesHigh parts) h
    rw [linkLines_cons, he, ih _ _ hl, List.flatMap_cons]

/-- A byte that the loader sends stands on the line as it is, most significant bit first, with the acknowledge bit the memory's. -/
theorem lineBits_send (b : Byte) (acknowledge : Bool) :
    (LinkOp.send b).lineBits (List.replicate 8 true ++ [acknowledge]) = ninePulses b acknowledge := by
  simp [LinkOp.lineBits, LinkOp.loaderBits, ninePulses, msbFirst, List.range_succ]

/-- A byte that the loader takes as its last stands on the line as the memory gives it, left unacknowledged. -/
theorem lineBits_takeLast (b : Byte) : LinkOp.takeLast.lineBits (givenBits [b]) = ninePulses b true := by
  simp [LinkOp.lineBits, LinkOp.loaderBits, givenBits, ninePulses, msbFirst, List.range_succ, List.replicate]

/-- Bytes that the loader takes and acknowledges stand on the line as the memory gives them, each acknowledge bit low. -/
theorem lineBits_takeAcked (bytes : List Byte) :
    (LinkOp.takeAcked bytes.length).lineBits (givenBits bytes) = bytes.flatMap fun b => ninePulses b false := by
  induction bytes with
  | nil => rfl
  | cons b bytes ih =>
    simp only [LinkOp.lineBits, LinkOp.loaderBits, givenBits, List.length_cons, List.replicate_succ, List.flatten_cons,
      List.flatMap_cons] at ih ⊢
    rw [List.mapIdx_append, ← ih]
    congr 1

end Sys2Proof.Machine
end

