-- ==== Sys2Proof/Laws/Plans.lean ====
section
/-! SUPPORT. What the plan store's shared operations do to its lanes: the comparison with the near-full threshold, the comparison of
the lanes whose threshold has changed, and the lanes of a switch-over. -/

namespace Sys2Proof.Machine

/-- A list with one element changed by a function of itself. -/
theorem set_getD {α : Type} (l : List α) (i : Nat) (d : α) (f : α → α) : l.set i (f (l.getD i d)) = l.modify i f := by
  apply List.ext_getElem?
  intro j
  simp only [List.getElem?_set, List.getElem?_modify]
  by_cases h : i = j
  · subst h
    by_cases hl : i < l.length
    · simp [hl, List.getD]
    · simp [hl]
  · simp [h]

theorem PlanStore.lane_setLane (p : PlanStore) (lane k : Nat) (ls : LaneState) (h : lane < p.lanes.length) :
    (p.setLane lane ls).lane k = if k = lane then ls else p.lane k := by
  by_cases e : k = lane
  · subst e; simp [PlanStore.setLane, PlanStore.lane, List.getD, h]
  · simp [PlanStore.setLane, PlanStore.lane, List.getD, Ne.symm e, e]

theorem Plan.entry_setEntry (p : Plan) (lane k : Nat) (e : PlanEntry) (h : lane < p.entries.length) :
    (p.setEntry lane e).entry k = if k = lane then e else p.entry k := by
  by_cases he : k = lane
  · subst he; simp [Plan.setEntry, Plan.entry, List.getD, h]
  · simp [Plan.setEntry, Plan.entry, List.getD, Ne.symm he, he]

/-- R148: an own open intent is on a lane when its record is held there. -/
theorem intentOnLane_iff (s : State) (lane : Nat) :
    intentOnLane s lane = true ↔ ∃ it ∈ s.intents.open_, ∃ r, s.units.find it.tag = some r ∧ r.lane = lane := by
  simp [intentOnLane, List.any_eq_true, Option.any_eq_true]

/-! ### Comparing free lengths (R153, R154) -/

@[simp] theorem compareNearFull_plans (im : Image) (lane : Nat) (s : State) :
    (compareNearFull im lane s).plans.active = s.plans.active ∧
      (compareNearFull im lane s).plans.stagedA = s.plans.stagedA ∧
      (compareNearFull im lane s).plans.stagedB = s.plans.stagedB ∧
      (compareNearFull im lane s).plans.lanes.length = s.plans.lanes.length ∧
      (compareNearFull im lane s).plans.generation = s.plans.generation ∧
      (compareNearFull im lane s).plans.selected = s.plans.selected ∧
      (compareNearFull im lane s).plans.switchLevel = s.plans.switchLevel := by
  simp only [compareNearFull]
  repeat' split
  all_goals simp

theorem compareNearFull_lane (im : Image) (lane k : Nat) (s : State) (h : lane < s.plans.lanes.length) :
    (compareNearFull im lane s).plans.lane k =
      if k = lane then { s.plans.lane lane with reported := nearlyFull im s lane } else s.plans.lane k := by
  simp only [compareNearFull]
  split
  · rename_i hn
    split
    · subst k; rw [hn]
    · rfl
  · split <;> simp [PlanStore.lane_setLane, h]

theorem compareNearFull_reports (im : Image) (lane : Nat) (s : State) :
    (compareNearFull im lane s).reports = s.reports ∨
      (compareNearFull im lane s).reports = s.reports ++ [.laneNearFull lane (freeLength im s.units.records lane)] := by
  simp only [compareNearFull]
  repeat' split
  all_goals simp only [post_fields, admitted, Report.isDecision, Bool.false_or, true_or]
  split
  · exact Or.inr rfl
  · exact Or.inl rfl

/-- Free length and threshold of a lane, and so near-fullness, are what they were. -/
theorem nearlyFull_compareNearFull (im : Image) (lane k : Nat) (s : State) :
    threshold im (compareNearFull im lane s).plans k = threshold im s.plans k ∧
      nearlyFull im (compareNearFull im lane s) k = nearlyFull im s k := by
  have h : threshold im (compareNearFull im lane s).plans k = threshold im s.plans k := by
    simp [threshold, effectiveProfile, PlanStore.profileNo]
  exact ⟨h, by simp [nearlyFull, h]⟩

@[simp] theorem compareChanged_plans (im : Image) (before : PlanStore) (lanes : List Nat) (s : State) :
    (compareChanged im before lanes s).plans.active = s.plans.active ∧
      (compareChanged im before lanes s).plans.stagedA = s.plans.stagedA ∧
      (compareChanged im before lanes s).plans.stagedB = s.plans.stagedB ∧
      (compareChanged im before lanes s).plans.lanes.length = s.plans.lanes.length ∧
      (compareChanged im before lanes s).plans.generation = s.plans.generation ∧
      (compareChanged im before lanes s).plans.selected = s.plans.selected ∧
      (compareChanged im before lanes s).plans.switchLevel = s.plans.switchLevel := by
  induction lanes generalizing s with
  | nil => simp [compareChanged]
  | cons lane rest ih =>
    simp only [compareChanged]
    split <;> simp [ih]

/-- The lanes given, in ascending order: each whose threshold has changed is compared, and no other. -/
theorem compareChanged_lane (im : Image) (before : PlanStore) (lanes : List Nat) (s : State) (k : Nat)
    (hs : lanes.Pairwise (· < ·)) (hl : ∀ l ∈ lanes, l < s.plans.lanes.length) :
    (compareChanged im before lanes s).plans.lane k =
      if k ∈ lanes ∧ threshold im s.plans k ≠ threshold im before k then
        { s.plans.lane k with reported := nearlyFull im s k }
      else s.plans.lane k := by
  induction lanes generalizing s with
  | nil => simp [compareChanged]
  | cons lane rest ih =>
    have hp := List.pairwise_cons.1 hs
    have hin := hl lane (by simp)
    have hr : ∀ l ∈ rest, l < s.plans.lanes.length := fun l h => hl l (by simp [h])
    simp only [compareChanged]
    by_cases ht : threshold im s.plans lane = threshold im before lane
    · rw [if_pos ht, ih s hp.2 hr]
      by_cases e : k = lane
      · subst e; simp [ht]
      · simp [e]
    · rw [if_neg ht, ih _ hp.2 (by simpa using hr), (nearlyFull_compareNearFull im lane k s).1,
        (nearlyFull_compareNearFull im lane k s).2, compareNearFull_lane im lane k s hin]
      by_cases e : k = lane
      · subst e
        have : k ∉ rest := fun h => absurd (hp.1 k h) (by omega)
        simp [this, ht]
      · simp [e]

/-- What it posts: LANE NEAR FULL, in ascending lane number. -/
theorem compareChanged_reports (im : Image) (before : PlanStore) (lanes : List Nat) (s : State) (hs : lanes.Pairwise (· < ·)) :
    ∃ near : List (Nat × Int), (near.map Prod.fst).Pairwise (· < ·) ∧ (∀ x ∈ near, x.1 ∈ lanes) ∧
      (compareChanged im before lanes s).reports = s.reports ++ near.map fun x => .laneNearFull x.1 x.2 := by
  induction lanes generalizing s with
  | nil => exact ⟨[], by simp, by simp, by simp [compareChanged]⟩
  | cons lane rest ih =>
    have hp := List.pairwise_cons.1 hs
    simp only [compareChanged]
    split
    · obtain ⟨near, h1, h2, h3⟩ := ih s hp.2
      exact ⟨near, h1, fun x hx => by simp [h2 x hx], h3⟩
    · obtain ⟨near, h1, h2, h3⟩ := ih (compareNearFull im lane s) hp.2
      rcases compareNearFull_reports im lane s with h | h
      · exact ⟨near, h1, fun x hx => by simp [h2 x hx], by rw [h3, h]⟩
      · refine ⟨(lane, freeLength im s.units.records lane) :: near, ?_, ?_, by rw [h3, h]; simp⟩
        · simp only [List.map_cons, List.pairwise_cons]
          refine ⟨fun k hk => ?_, h1⟩
          obtain ⟨x, hx, rfl⟩ := List.mem_map.1 hk
          exact hp.1 _ (h2 x hx)
        · intro x hx
          rcases List.mem_cons.1 hx with rfl | hx
          · simp
          · simp [h2 x hx]

/-! ### The lanes of a switch-over (R148) -/

@[simp] theorem switchLane_plans (s : State) (lane : Nat) (new : PlanEntry) (p : PlanStore) :
    (switchLane s lane new p).active.entries.length = p.active.entries.length ∧
      (switchLane s lane new p).active.dflt = p.active.dflt ∧ (switchLane s lane new p).stagedA = p.stagedA ∧
      (switchLane s lane new p).stagedB = p.stagedB ∧ (switchLane s lane new p).lanes.length = p.lanes.length ∧
      (switchLane s lane new p).generation = p.generation ∧ (switchLane s lane new p).selected = p.selected ∧
      (switchLane s lane new p).switchLevel = p.switchLevel := by
  simp only [switchLane]
  repeat' split
  all_goals simp

theorem switchLane_other (s : State) (lane k : Nat) (new : PlanEntry) (p : PlanStore) (h : k ≠ lane) :
    (switchLane s lane new p).active.entry k = p.active.entry k ∧ (switchLane s lane new p).lane k = p.lane k := by
  simp only [switchLane]
  repeat' split
  all_goals simp [PlanStore.setLane, PlanStore.lane, Plan.entry, Plan.setEntry, List.getD, Ne.symm h]

@[simp] theorem switchLanes_plans (s : State) (new : List (Nat × PlanEntry)) (p : PlanStore) :
    (switchLanes s new p).active.entries.length = p.active.entries.length ∧
      (switchLanes s new p).active.dflt = p.active.dflt ∧ (switchLanes s new p).stagedA = p.stagedA ∧
      (switchLanes s new p).stagedB = p.stagedB ∧ (switchLanes s new p).lanes.length = p.lanes.length ∧
      (switchLanes s new p).generation = p.generation ∧ (switchLanes s new p).selected = p.selected ∧
      (switchLanes s new p).switchLevel = p.switchLevel := by
  induction new generalizing p with
  | nil => simp [switchLanes]
  | cons x rest ih => simp [switchLanes, ih]

/-- A lane that has no new entry is left alone. -/
theorem switchLanes_other (s : State) (new : List (Nat × PlanEntry)) (p : PlanStore) (k : Nat) (h : ∀ x ∈ new, x.1 ≠ k) :
    (switchLanes s new p).active.entry k = p.active.entry k ∧ (switchLanes s new p).lane k = p.lane k := by
  induction new generalizing p with
  | nil => simp [switchLanes]
  | cons x rest ih =>
    have hx := switchLane_other s x.1 k x.2 p (Ne.symm (h x (by simp)))
    have := ih (switchLane s x.1 x.2 p) (fun y hy => h y (by simp [hy]))
    simp only [switchLanes]
    exact ⟨this.1.trans hx.1, this.2.trans hx.2⟩

end Sys2Proof.Machine
end

