-- ==== Sys2Proof/Laws/PortFree.lean ====
section
/-! SUPPORT. No shared operation that a terminal request uses looks at the port or changes it: each commutes with a change of the
port. -/

namespace Sys2Proof.Machine

theorem post_withPort (r : Report) (s : State) (p : Port) :
    post r (s.withPort p) = (post r s).withPort p := by
  rfl

theorem releaseHeld_withPort (s : State) (p : Port) :
    releaseHeld (s.withPort p) = (releaseHeld s).withPort p := by
  rfl

theorem refuseMarked_withPort (s : State) (p : Port) :
    refuseMarked (s.withPort p) = (refuseMarked s).withPort p := by
  simp only [refuseMarked, State.withPort_fields]
  split
  · split <;> rfl
  · rfl

theorem settle_withPort (s : State) (p : Port) :
    settle (s.withPort p) = (settle s).withPort p := by
  have h : ∀ im, excessNow (s.withPort p) im = excessNow s im := fun _ => rfl
  simp only [settle, State.withPort_fields, h]
  split
  · rfl
  · split <;> rfl

theorem compareNearFull_withPort (im : Image) (lane : Nat) (s : State) (p : Port) :
    compareNearFull im lane (s.withPort p) = (compareNearFull im lane s).withPort p := by
  have h : nearlyFull im (s.withPort p) lane = nearlyFull im s lane := rfl
  simp only [compareNearFull, h, State.withPort_fields]
  split
  · rfl
  · split <;> rfl

theorem insertRecord_withPort (im : Image) (r : UnitRecord) (s : State) (p : Port) :
    insertRecord im r (s.withPort p) = (insertRecord im r s).withPort p := by
  exact compareNearFull_withPort im r.lane { s with units := s.units.insert r } p

theorem removeRecord_withPort (im : Image) (r : UnitRecord) (s : State) (p : Port) :
    removeRecord im r (s.withPort p) = (removeRecord im r s).withPort p := by
  exact compareNearFull_withPort im r.lane { s with units := s.units.remove r.unit.tag } p

theorem compareChanged_withPort (im : Image) (before : PlanStore) (lanes : List Nat) (s : State) (p : Port) :
    compareChanged im before lanes (s.withPort p) = (compareChanged im before lanes s).withPort p := by
  induction lanes generalizing s with
  | nil => rfl
  | cons lane rest ih =>
    simp only [compareChanged]
    have h : threshold im (s.withPort p).plans lane = threshold im s.plans lane := rfl
    rw [h]
    split
    · exact ih s
    · rw [compareNearFull_withPort]
      exact ih _

theorem takeEntry_withPort (lane : Nat) (e : PlanEntry) (s : State) (p : Port) :
    takeEntry lane e (s.withPort p) = (takeEntry lane e s).withPort p := by
  rfl

theorem applyPending_withPort (im : Image) (lane : Nat) (s : State) (p : Port) :
    applyPending im lane (s.withPort p) = (applyPending im lane s).withPort p := by
  have h : intentOnLane (s.withPort p) lane = intentOnLane s lane := rfl
  simp only [applyPending, h, State.withPort_fields]
  split
  · rfl
  · split
    · rfl
    · exact compareChanged_withPort im s.plans [lane] (takeEntry lane _ s) p

theorem switchLanes_withPort (new : List (Nat × PlanEntry)) (s : State) (p : Port) (q : PlanStore) :
    switchLanes (s.withPort p) new q = switchLanes s new q := by
  induction new generalizing q with
  | nil => rfl
  | cons x rest ih => exact ih _

theorem switched_withPort (new : List (Nat × PlanEntry)) (dflt : Option Nat) (s : State) (p : Port) :
    switched new dflt (s.withPort p) = (switched new dflt s).withPort p := by
  simp only [switched, State.withPort_fields, switchLanes_withPort]
  rfl

theorem copyUnused_withPort (im : Image) (st : Plan) (s : State) (p : Port) :
    copyUnused im st (s.withPort p) = (copyUnused im st s).withPort p := by
  rfl

theorem switchOver_withPort (im : Image) (new : List (Nat × PlanEntry)) (dflt : Option Nat) (s : State) (p : Port) :
    switchOver im new dflt (s.withPort p) = (switchOver im new dflt s).withPort p := by
  simp only [switchOver, switched_withPort, compareChanged_withPort, State.withPort_fields, releaseHeld_withPort]

theorem switchFromStaged_withPort (im : Image) (which : Staged) (s : State) (p : Port) :
    switchFromStaged im which (s.withPort p) = (switchFromStaged im which s).withPort p := by
  simp only [switchFromStaged, copyUnused_withPort, switchOver_withPort, State.withPort_fields]

theorem freed_withPort (im : Image) (lane : Nat) (s : State) (p : Port) :
    freed im lane (s.withPort p) = (freed im lane s).withPort p := by
  simp only [freed, applyPending_withPort, releaseHeld_withPort, settle_withPort]

theorem handOn_withPort (n : Notice) (s : State) (p : Port) :
    handOn n (s.withPort p) = (handOn n s).withPort p := by
  simp only [handOn, State.withPort_fields]
  split <;> rfl

theorem cancelRecord_withPort (im : Image) (it : Intent) (s : State) (p : Port) :
    cancelRecord im it (s.withPort p) = (cancelRecord im it s).withPort p := by
  have h : (s.withPort p).units = s.units := rfl
  simp only [cancelRecord, h]
  split
  · exact removeRecord_withPort im _ s p
  · rfl
  · rfl

theorem cancelSteps_withPort (im : Image) (it : Intent) (s : State) (p : Port) :
    cancelSteps im it (s.withPort p) = (cancelSteps im it s).withPort p := by
  have h := cancelRecord_withPort im it { s with bus := s.bus.dropIntent it.id } p
  have g : ({ s.withPort p with bus := (s.withPort p).bus.dropIntent it.id } : State) =
      ({ s with bus := s.bus.dropIntent it.id } : State).withPort p := rfl
  simp only [cancelSteps]
  rw [g, h]
  rfl

theorem freeIntent_withPort (id : IntentId) (s : State) (p : Port) :
    freeIntent id (s.withPort p) = (freeIntent id s).withPort p := by
  rfl

theorem parkRecord_withPort (r : UnitRecord) (s : State) (p : Port) :
    parkRecord r (s.withPort p) = (parkRecord r s).withPort p := by
  rfl

theorem returnRecord_withPort (r : UnitRecord) (s : State) (p : Port) :
    returnRecord r (s.withPort p) = (returnRecord r s).withPort p := by
  rfl

theorem dropDeparture_withPort (tag : Tag) (s : State) (p : Port) :
    dropDeparture tag (s.withPort p) = (dropDeparture tag s).withPort p := by
  rfl

theorem replaceWindow_withPort (lo hi : Int) (s : State) (p : Port) :
    replaceWindow lo hi (s.withPort p) = (replaceWindow lo hi s).withPort p := by
  rfl

theorem closeParked_withPort (im : Image) (r : UnitRecord) (it : Intent) (s : State) (p : Port) :
    closeParked im r it (s.withPort p) = (closeParked im r it s).withPort p := by
  simp only [closeParked, parkRecord_withPort, freeIntent_withPort, handOn_withPort, freed_withPort]

theorem closeAbandoned_withPort (im : Image) (r : UnitRecord) (it : Intent) (s : State) (p : Port) :
    closeAbandoned im r it (s.withPort p) = (closeAbandoned im r it s).withPort p := by
  simp only [closeAbandoned, removeRecord_withPort, freeIntent_withPort, handOn_withPort, freed_withPort]

theorem closeDeparted_withPort (im : Image) (r : UnitRecord) (it : Intent) (s : State) (p : Port) :
    closeDeparted im r it (s.withPort p) = (closeDeparted im r it s).withPort p := by
  simp only [closeDeparted, removeRecord_withPort, freeIntent_withPort, handOn_withPort, freed_withPort]

theorem closeStayed_withPort (im : Image) (r : UnitRecord) (it : Intent) (s : State) (p : Port) :
    closeStayed im r it (s.withPort p) = (closeStayed im r it s).withPort p := by
  simp only [closeStayed, returnRecord_withPort, freeIntent_withPort, handOn_withPort, freed_withPort]

theorem summaryForced_withPort (s : State) (p : Port) :
    summaryForced (s.withPort p) = (summaryForced s).withPort p := by
  simp only [summaryForced, State.withPort_fields]
  split <;> rfl

theorem forceOut_withPort (im : Image) (r : UnitRecord) (s : State) (p : Port) :
    forceOut im r (s.withPort p) = (forceOut im r s).withPort p := by
  simp only [forceOut, removeRecord_withPort, dropDeparture_withPort, summaryForced_withPort]

theorem forceParked_withPort (im : Image) (r : UnitRecord) (s : State) (p : Port) :
    forceParked im r (s.withPort p) = (forceParked im r s).withPort p := by
  simp only [forceParked, forceOut_withPort, releaseHeld_withPort, settle_withPort]

theorem forceUnannounced_withPort (im : Image) (r : UnitRecord) (it : Intent) (s : State) (p : Port) :
    forceUnannounced im r it (s.withPort p) = (forceUnannounced im r it s).withPort p := by
  simp only [forceUnannounced, cancelSteps_withPort, forceOut_withPort, freed_withPort]

theorem putWindow_withPort (lo hi : Int) (s : State) (p : Port) :
    putWindow lo hi (s.withPort p) = (putWindow lo hi s).withPort p := by
  simp only [putWindow, replaceWindow_withPort, settle_withPort, releaseHeld_withPort]

theorem enterJoined_withPort (s : State) (p : Port) :
    enterJoined (s.withPort p) = (enterJoined s).withPort p := by
  rfl

theorem joinQueue_withPort (ask : Ask) (s : State) (p : Port) :
    joinQueue ask (s.withPort p) = (joinQueue ask s).withPort p := by
  rfl

end Sys2Proof.Machine
end

