-- ==== Sys2Proof/Laws/Requests.lean ====
section
/-! SUPPORT. What serving a request comes to (R156, R157): the handling of its owner on the state as it stands, and the reply pending
at the port. -/

namespace Sys2Proof.Safety

open Sys2Proof.Machine

theorem received_iff (s : State) : receives s = true ↔ Received s := by
  simp [receives, Received]

/-- The port in which a received request is handled. -/
theorem takeIn_eq (s : State) : takeIn s = s.withPort (if s.port.selection then s.port else s.port.begin) := by
  simp only [takeIn]
  split <;> rfl

/-- A handling that does not look at the port is made on the state as it stands. -/
theorem serve_received (s : State) (handle : State → List Byte × State) (hr : Received s)
    (hp : ∀ p, handle (s.withPort p) = ((handle s).1, (handle s).2.withPort p)) :
    serve s handle = .next ((handle s).2.withPort (answered s.port (handle s).1)) := by
  simp only [serve, (received_iff s).2 hr, if_true, takeIn_eq, hp, answer, State.withPort_fields]
  congr 1
  simp only [State.withPort, answered, Port.begin]
  cases s.port.selection <;> cases s.port.pendingReply <;> rfl

theorem serveCode_received (s : State) (handle : State → ReplyCode × State) (hr : Received s)
    (hp : ∀ p, handle (s.withPort p) = ((handle s).1, (handle s).2.withPort p)) :
    serveCode s handle = reply (handle s).1 s (handle s).2 := by
  rw [serveCode, serve_received s _ hr (fun p => by rw [hp p])]
  rfl

theorem serve_not_received (s : State) (handle : State → List Byte × State) (hr : ¬ Received s) : serve s handle = .next s := by
  simp [serve, mt (received_iff s).1 hr]

theorem serveCode_not_received (s : State) (handle : State → ReplyCode × State) (hr : ¬ Received s) :
    serveCode s handle = .next s := serve_not_received s _ hr

/-- The record checks of R23 fail exactly on a bad record. -/
theorem acceptable_false_iff (n : Nat) (u : RawUnit) : u.acceptable n = false ↔ BadRecord n u := by
  have hk : ∀ k : Nat, (kindOfCode k).isSome = decide (k ≤ 4) := by
    intro k
    match k with
    | 0 | 1 | 2 | 3 | 4 => rfl
    | k + 5 => simp [kindOfCode]
  rw [← Bool.not_eq_true]
  simp only [RawUnit.acceptable, BadRecord, hk]
  simp only [Bool.and_eq_true, decide_eq_true_eq, bne_iff_ne]
  have hp : (u.preferred.all fun p => decide (p.toNat < n)) = !(u.preferred.any fun p => decide (n ≤ p.toNat)) := by
    cases u.preferred with
    | none => rfl
    | some p => by_cases h : n ≤ p.toNat <;> (simp [h]; try omega)
  rw [hp]
  generalize (u.preferred.any fun p => decide (n ≤ p.toNat)) = b
  cases b
  · simp only [Bool.not_false, and_true, Bool.false_eq_true, or_false]
    have : u.tag = 0 ∨ u.tag ≠ 0 := em _
    rcases this with h | h
    · simp [h]
    · simp only [h, ne_eq, not_false_eq_true, true_and, false_or]; omega
  · simp

/-- R22: what the lookups by tag find. -/
theorem tagHeld_iff (s : State) (tag : Tag) : tagHeld s tag = true ↔ TagHeld s tag := by
  simp [tagHeld, TagHeld, UnitStore.find, List.find?_isSome, List.any_eq_true]

end Sys2Proof.Safety
end

