-- ==== Sys2Proof/Laws/Selection.lean ====
section
/-! SUPPORT. The lines of a selection: the bits clocked in are the bits sampled, and each rising edge finds its own bit of the reply on
data-out. -/

namespace Sys2Proof.Machine

/-- One bit clocked in, after any low clock, is sampled once. -/
theorem sampledIn_bit (d bit : Bool) (rest : List TerminalMoment) :
    sampledIn (⟨false, d⟩ :: ⟨false, bit⟩ :: ⟨true, bit⟩ :: ⟨false, bit⟩ :: rest) = bit :: sampledIn (⟨false, bit⟩ :: rest) := by
  simp [sampledIn, clockRises]

/-- The bits clocked in are the bits sampled, whatever stood on data-in while the clock was at rest. -/
theorem sampledIn_clockedIn (bits : List Bool) (d : Bool) : sampledIn (⟨false, d⟩ :: clockedIn bits) = bits := by
  induction bits generalizing d with
  | nil => rfl
  | cons bit bits ih =>
    have h : clockedIn (bit :: bits) = ⟨false, bit⟩ :: ⟨true, bit⟩ :: ⟨false, bit⟩ :: clockedIn bits := rfl
    rw [h, sampledIn_bit, ih]

@[simp] theorem dataOutFrom_length (p : Port) (bit : Nat) (moments : List TerminalMoment) :
    (dataOutFrom p bit moments).length = moments.length := by
  induction moments generalizing bit with
  | nil => rfl
  | cons a moments ih =>
    cases moments with
    | nil => rfl
    | cons b rest => simp only [dataOutFrom, List.length_cons, ih]

/-- One bit clocked in finds its bit of the reply before the clock falls, and leaves the next one on data-out. -/
theorem dataOutFrom_bit (p : Port) (bit : Nat) (a b c : Bool) (rest : List TerminalMoment) :
    dataOutFrom p bit (⟨false, a⟩ :: ⟨true, b⟩ :: ⟨false, c⟩ :: rest) =
      shiftedOutBit p bit :: shiftedOutBit p bit :: dataOutFrom p (bit + 1) (⟨false, c⟩ :: rest) := by
  simp [dataOutFrom, clockFalls]

/-- The bits taken in, all at once: data-in at the moments to which the clock rises. -/
theorem sampledIn_eq (moments : List TerminalMoment) : sampledIn moments =
    ((moments.zip (moments.drop 1)).filter fun x => !x.1.clock && x.2.clock).map fun x => x.2.dataIn := by
  induction moments with
  | nil => rfl
  | cons a l ih =>
    cases l with
    | nil => rfl
    | cons b l =>
      simp only [sampledIn, ih, List.drop_one, List.tail_cons, List.zip_cons_cons, List.filter_cons, clockRises]
      by_cases h : (!a.clock && b.clock) = true <;> simp only [h] <;> simp

/-- Data-out at a moment: the bit that follows as many as the clock has fallen before it. -/
theorem dataOutFrom_getElem? (p : Port) (bit : Nat) (moments : List TerminalMoment) (i : Nat) (h : i < moments.length) :
    (dataOutFrom p bit moments)[i]? = some (shiftedOutBit p (bit + ((List.range i).filter fun j =>
      (moments.getD j ⟨false, false⟩).clock && !(moments.getD (j + 1) ⟨false, false⟩).clock).length)) := by
  induction moments generalizing bit i with
  | nil => simp at h
  | cons a l ih =>
    cases l with
    | nil =>
      obtain rfl : i = 0 := by simpa using h
      simp [dataOutFrom]
    | cons b l =>
      cases i with
      | zero => simp [dataOutFrom]
      | succ i =>
        simp only [dataOutFrom, List.getElem?_cons_succ]
        rw [ih _ i (by simpa using h), List.range_succ_eq_map, List.filter_cons, List.filter_map]
        simp only [Function.comp_def, List.getD_cons_zero, List.getD_cons_succ, clockFalls, Nat.succ_eq_add_one]
        by_cases hc : (a.clock && !b.clock) = true
        · simp only [hc, if_true, List.length_cons, List.length_map]
          congr 2
          omega
        · simp only [hc, Bool.false_eq_true, if_false, List.length_map]

end Sys2Proof.Machine
end

