-- ==== Sys2Proof/Tests/Slice0.lean ====
section
/-! SUPPORT. Tests on small states: ill-formed commands are refused, the manual's worked cases come out, and every hypothesis of a
statement is met by a concrete state. Expected values are the manual's own, named in each test's comment. -/

namespace Sys2Proof.Tests

open Sys2Proof.Machine Sys2Proof.Safety

set_option Elab.async false

/-! ### A small station -/

/-- A lane of the worked case of section 3.5 with the given y, clearance and powered length. -/
def lane (y : Int) (clearance powered : Nat) (order : OrderKind) : LaneDesc :=
  { xStop := 1800, len := 1500, y := y, z := 120, width := 32, high := clearance, low := 40, axle := 120, order := order,
    powered := powered }

/-- A profile that admits every unit, with the weights of section 3.5 and the given threshold. -/
def profile (threshold : Nat) : Profile := ⟨0x1F, 0xFF, true, threshold, 8, 4, 6, 1⟩

/-- OPEN, ANY, DEFAULT. -/
def openEntry : PlanEntry := ⟨false, none, none⟩

/-- A plan of OPEN lanes. -/
def openPlan : Plan := ⟨List.replicate 24 openEntry, 0⟩

/-- Bounds of nothing at all. -/
def noBounds : Bounds := ⟨Quad.zero, Quad.zero⟩

/-- The deck of section 3.5: station 1 with twelve lanes, and peers 2 and 4. -/
def deck : Image :=
  { stationNo := 1, laneCount := 12, gap := 3, xMid := 1100, dMax := 40000, waitLimit := 60, lifetime := 600,
    heartbeat := 1000, silence := 3, expected := 0x16, subst := .bound, switchMode := .direct, openDrain := true,
    activeHigh := false
    lanes := List.replicate 3 (lane 60 40 0 .through) ++ [lane 60 48 400 .through] ++
      List.replicate 4 (lane 0 48 0 .through) ++ [lane (-60) 48 600 .through] ++ List.replicate 3 (lane 60 40 0 .blind)
    apart := 60, matrix := [0, 0, 0, 0x20, 0, 0x08, 0]
    mMax := 200000, tMax := 150000, vMax := 12000000, wMin := -400000, wMax := 600000
    bounds := List.replicate 4 noBounds ++ [⟨⟨0, -15000, -30000, 0⟩, ⟨3000, 15000, 30000, 400000⟩⟩] ++ List.replicate 3 noBounds
    profiles := profile 0 :: List.replicate 15 (profile 250)
    plan := openPlan }

/-- A peer record with the given lock state, its silence timer at the silence limit of 3000 ms. -/
def peer (n : StationNo) (lock : Lock) : Peer := ⟨n, lock, some 13, Quad.zero, 0, [], .running 3000⟩

/-- A joined station on that deck, empty, its port idle and ready. -/
def joined : State :=
  { State.reset with
    port := { rdy := true, selection := false, dataOut := .released, pendingReply := none }
    control := { State.reset.control with held := false, ticked := true, station := .joined }
    image := some deck
    view := { wMin := -400000, wMax := 600000, limitExcess := false }
    bus := { State.reset.bus with line := .idle, heartbeat := some 1000 }
    peers := { peers := [peer 2 .locked, peer 4 .lost], stray := [] }
    plans := { State.reset.plans with
      active := openPlan, stagedA := openPlan, stagedB := openPlan, lanes := List.replicate 12 ⟨none, false, false⟩ } }

/-- The station in another state. -/
def inState (st : StationState) (s : State) : State := { s with control := { s.control with station := st } }

/-- The state a command answers. -/
def after (c : Instr) (s : State) : State :=
  match exec c s with
  | .next t => t
  | .fault _ | .refused _ => s

/-- The reply a request leaves pending. -/
def replied (c : Instr) (s : State) : Option (List Byte) := (after c s).port.pendingReply

/-- A unit of the given tag, length, group and port; the rest as the trailer of section 3.5. -/
def unit (tag : Tag) (length group port : Nat) : UnitId :=
  ⟨tag, .trailer, length, 26, 41, 320, 95, port, group, true, false, none⟩

/-- The same unit as submitted. -/
def raw (tag : Tag) : RawUnit := ⟨tag, 3, 136, 26, 41, 320, 95, 2, 0, 1, 0, none⟩

/-- A record of that unit. -/
def held (tag : Tag) (length group port lane offset : Nat) (st : RecordState) : UnitRecord :=
  ⟨unit tag length group port, lane, offset, contributions deck lane offset (unit tag length group port), st⟩

/-- The lanes and sums of section 3.5: two units in lane 3, expected T −25,000 and Lo 50,000. -/
def worked : State :=
  { joined with
    units :=
      { lowered := false, records := [held 1 165 0 1 3 0 .parked, held 2 138 0 2 3 168 .parked]
        sums := ⟨118000, -25000, 50000, 9000000⟩ }
    intake := [⟨.arrival (unit 7 136 0 2), .waiting, 0, false⟩] }

/-- One PARKED unit in lane 3, and a waiting departure that names it. -/
def leaving1 : State :=
  { joined with
    units := ⟨false, [held 5 136 0 2 3 0 .parked], contributions deck 3 0 (unit 5 136 0 2)⟩
    intake := [⟨.departure 5, .waiting, 0, false⟩] }

/-- An own PLACE intent for tag 5 in lane 3, in the given state, with its record and, where it is UNANNOUNCED, its entry and notice. -/
def placing (st : IntentState) : State :=
  let r := held 5 136 0 2 3 0 .pending
  { joined with
    units := ⟨false, [r], Quad.zero⟩
    intents := ⟨[⟨3, .place, 5, r.contrib, st⟩], 3⟩
    intake := if st = .unannounced then [⟨.placedArrival 5, .placing 3, 40, false⟩] else []
    bus := { joined.bus with queue := if st = .unannounced then [.intent ⟨3, .place, r.contrib⟩] else [] } }

/-- An own REMOVE intent for tag 5 in lane 3, in the given state. -/
def removing (st : IntentState) : State :=
  let r := held 5 136 0 2 3 0 .leaving
  { joined with
    units := ⟨false, [r], r.contrib⟩
    intents := ⟨[⟨5, .remove, 5, r.contrib.neg, st⟩], 5⟩
    intake := if st = .unannounced then [⟨.departure 5, .placing 5, 40, false⟩] else []
    bus := { joined.bus with queue := if st = .unannounced then [.intent ⟨5, .remove, r.contrib.neg⟩] else [] } }

/-! ### Ill-formed commands are refused (WellFormed) -/

theorem test_short_image_refused : (Instr.imageLoadEnd [0x55]).wellFormed = false := by decide
theorem test_framed_bytes_are_no_bad_request : (Instr.badRequest [0x00, 0x00]).wellFormed = false := by decide
theorem test_plan_of_25_entries_refused :
    (Instr.loadPlanActive 0 0xFF (List.replicate 25 ⟨0, 0, 0⟩)).wellFormed = false := by decide
theorem test_staged_plan_of_25_entries_refused :
    (Instr.loadPlanStaged 1 0 0xFF (List.replicate 25 ⟨0, 0, 0⟩)).wellFormed = false := by decide
theorem test_staged_row_is_not_active : (Instr.loadPlanStaged 0 0 0xFF []).wellFormed = false := by decide
theorem test_valid_frame_is_not_invalid :
    (Instr.invalidFrame ((Frame.bytes ⟨2, 7, .retract 3⟩).map fun b => ⟨b, true⟩)).wellFormed = false := by decide +kernel
theorem test_summary_mass_out_of_range :
    (Instr.receiveSummary ⟨2, 0, true⟩ ⟨307201, 0, 0, 0⟩ 0 []).wellFormed = false := by decide
theorem test_intent_against_its_direction :
    (Instr.receiveIntent ⟨2, 0, true⟩ ⟨3, .remove, ⟨5, 0, 0, 0⟩⟩).wellFormed = false := by decide
theorem test_settle_sums_out_of_range :
    (Instr.receiveSettle ⟨2, 0, true⟩ 3 ⟨0, 122880001, 0, 0⟩).wellFormed = false := by decide

/-! ### Worked cases of the manual -/

/-- Section 3.5: lane 3 scores 2667 and lane 8 scores 10,117; car lanes fail C1 and lanes 4 to 7 fail C3; lane 3 is chosen. -/
theorem test_trailer_of_section_3_5 :
    (candidates worked deck (unit 7 136 0 2)).map (reached worked deck) =
      [some .dimensions, some .dimensions, some .dimensions, none, some .power, some .power, some .power, some .power, none,
        some .dimensions, some .dimensions, some .dimensions] ∧
    score worked deck (candidateFor worked deck (unit 7 136 0 2) 3) = 2667 ∧
    score worked deck (candidateFor worked deck (unit 7 136 0 2) 8) = 10117 ∧
    outcomeOf worked deck (unit 7 136 0 2) = .place (candidateFor worked deck (unit 7 136 0 2) 3) := by decide +kernel

/-- Section 3.5, after the event: s 309 PENDING with the deltas given, free length 1052, the gate closed, list figure 89. -/
theorem test_trailer_of_section_3_5_placed :
    let t := after .evaluateArrival worked
    t.units.records.getLast?.map (fun r => (r.lane, r.offset, r.state, r.contrib)) =
      some (3, 309, .pending, ⟨320, 38400, 206720, 89920⟩) ∧
    freeLength deck t.units.records 3 = 1052 ∧ t.units.sums = worked.units.sums ∧ gateOpen t = false ∧
    t.intake.map (fun e => (e.ask, e.state)) = [(.placedArrival 7, .placing 1)] ∧ listFigure t deck = 89 := by decide +kernel

/-- Section 3.3, C6 distances: X overlaps and fails, Y stands 109 dm off and passes, Z is not marked. -/
theorem test_keep_apart_distances :
    let im := { deck with lanes := [lane 0 48 0 .through, lane 0 48 0 .through, { lane 0 48 0 .through with xStop := 1750 },
      lane 0 48 0 .through, { lane 0 48 0 .through with xStop := 1700 }] }
    let c := fun (others : List UnitRecord) => (⟨unit 9 136 4 1, 3, 309, Quad.zero, others, none⟩ : Candidate)
    let x := held 1 120 6 1 2 200 .parked
    let y := held 2 100 6 1 4 0 .parked
    gapTo im (c []) x = 0 ∧ gapTo im (c []) y = 109 ∧ fitsApart im (c [x]) = false ∧
      fitsApart im (c [y, held 3 165 2 1 3 0 .parked]) = true := by decide +kernel

/-- Section 3.3: C1, C5, C9, C8, C11 and C4 reached give SHIP_LIMITS; with C6 in place of C11, PROFILE; all fixed, APART. -/
theorem test_highest_check_decides :
    failOutcome [.dimensions, .order, .profile, .laneState, .shipLimits, .room] = .held .shipLimits ∧
    failOutcome [.dimensions, .order, .profile, .laneState, .apart, .room] = .held .profile ∧
    failOutcome [.dimensions, .order, .apart, .room] = .refused .apart := by decide

/-- Section 4.2: bounds −30,001..+30,000 have midpoint 0, −15..0 has −7, 0..7 has 3. -/
theorem test_midpoints_truncate :
    (midpoint ⟨⟨0, -30001, -15, 0⟩, ⟨0, 30000, 0, 7⟩⟩) = ⟨0, 0, -7, 3⟩ := by decide

/-- Section 4.3, the interval check with a lost peer: −48,000..42,000, both outboard candidates fail, the list figure is 33. -/
theorem test_interval_with_a_lost_peer :
    let im := { deck with tMax := 60000, bounds := List.replicate 8 ⟨⟨0, -30000, 0, 0⟩, ⟨0, 30000, 0, 0⟩⟩ }
    let s := { joined with
      units := ⟨false, [], ⟨0, -12000, 0, 0⟩⟩
      intents := ⟨[⟨1, .place, 5, ⟨0, -10000, 0, 0⟩, .announced 0⟩], 1⟩
      peers := ⟨[{ peer 2 .locked with sums := ⟨0, 4000, 0, 0⟩, recorded := [⟨3, .place, ⟨0, 20000, 0, 0⟩⟩] }, peer 4 .lost], []⟩ }
    (viewLow s im none Quad.zero).t = -48000 ∧ (viewHigh s im none Quad.zero).t = 42000 ∧
      limitCheck s im none ⟨0, 38400, 0, 0⟩ = false ∧ limitCheck s im none ⟨0, -38400, 0, 0⟩ = false ∧
      limitCheck s im none Quad.zero = true ∧ listFigure s im = 33 := by decide +kernel

/-- R24: masses 3, 2 and 40 with axles 4, 0 and 55 are clamped to 5 and 4, 5 and 1, 40 and 40. -/
theorem test_clamping :
    ([(3, 4), (2, 0), (40, 55)].map fun (x : BitVec 16 × Byte) =>
      ({ raw 1 with mass := x.1, axle := x.2 }.clamped.mass, { raw 1 with mass := x.1, axle := x.2 }.clamped.axle)) =
      [(5, 4), (5, 1), (40, 40)] := by decide

/-- Section 6, three stations on an idle line: after one failure B is 48 at station 2 and 80 at station 4 (R112). -/
theorem test_backoff : backoff 2 1 = 48 ∧ backoff 4 1 = 80 ∧ attemptWait 2 0 = 16 := by decide

/-- Section 6, closures and the waiting SUMMARY: at the heartbeat the SUMMARY takes the place of SETTLE 5, RETRACT 6, SETTLE 7 and
SETTLE 8, ahead of INTENT 9. -/
theorem test_summary_takes_the_place_of_closures :
    let e : IntentEntry := ⟨9, .place, ⟨5, 0, 0, 0⟩⟩
    let b := { joined.bus with queue := [.settle 5, .retract 6, .settle 7, .settle 8, .intent e], attempts := 1, frontSeq := some 60 }
    (b.askSummary.queue, b.askSummary.attempts, b.askSummary.frontSeq) = ([.summary, .intent e], 0, none) := by decide

/-- Section 7, one peer record: after SUMMARY 13 the INTENT 14 is in sequence; after SETTLE 15, INTENT 17 is out of sequence and the
record DOUBTFUL; the restarted peer's SUMMARY 0 locks it. -/
theorem test_one_peer_record :
    let p := { peer 4 .locked with sums := ⟨0, 5000, 0, 0⟩, recorded := [⟨2, .place, ⟨5, 20000, 0, 0⟩⟩] }
    let q := p.take ⟨4, 14, .intent ⟨3, .remove, ⟨-5, -8000, 0, 0⟩⟩⟩
    let r := q.take ⟨4, 15, .settle 2 ⟨0, 25000, 0, 0⟩⟩
    let u := r.take ⟨4, 17, .intent ⟨4, .place, ⟨5, 12000, 0, 0⟩⟩⟩
    (q.lock, q.lastSeq, (peerLow deck q).t, (peerHigh deck q).t) = (.locked, some 14, -3000, 25000) ∧
    (r.lock, (peerLow deck r).t, (peerHigh deck r).t) = (.locked, 17000, 25000) ∧
    (u.lock, u.lastSeq, (peerLow deck u).t, (peerHigh deck u).t) = (.doubtful, some 17, 17000, 37000) ∧
    (u.take ⟨4, 0, .summary ⟨0, 37000, 0, 0⟩ 0 []⟩).lock = .locked := by decide +kernel

/-- Section 8.4, the first edge: lane 4 with an open intent is deferred, lane 5 takes its reservation, PLAN SWITCHED (12, 1). -/
theorem test_first_edge_of_section_8_4 :
    let r := held 5 136 0 2 4 0 .pending
    let s := { joined with
      image := some { deck with switchMode := .line }
      units := ⟨false, [r], Quad.zero⟩
      intents := ⟨[⟨7, .place, 5, r.contrib, .announced 0⟩], 7⟩
      plans := { joined.plans with
        generation := 11
        stagedA := (openPlan.setEntry 4 ⟨true, none, some 2⟩).setEntry 5 ⟨false, some 3, none⟩ } }
    let t := after .switchEdge s
    (t.plans.active.entry 4, (t.plans.lane 4).pending, t.plans.active.entry 5, t.plans.generation, t.reports) =
      (openEntry, some ⟨true, none, some 2⟩, ⟨false, some 3, none⟩, 12, [.planSwitched 12 1]) := by decide +kernel

/-- Section 8.6: 180 dm free under threshold 120 is ARMED; a threshold of 250 reports it with 180 dm; back to 120 re-arms it. -/
theorem test_near_full_of_section_8_6 :
    let im := { deck with profiles := [profile 120, profile 250] }
    let s := { joined with units := ⟨false, [held 5 117 0 2 3 1200 .parked], Quad.zero⟩ }
    let give := fun (n : Nat) => switchOver im [] (some n)
    ((s.plans.lane 3).reported, ((give 1 s).plans.lane 3).reported, (give 1 s).reports,
      ((give 0 (give 1 s)).plans.lane 3).reported) =
      (false, true, [.planSwitched 1 0, .laneNearFull 3 180], false) := by decide +kernel

/-- Section 9, selection 3: TAKEN is clocked out, the reply to READ REPORT is DONE and the PLACED record. -/
theorem test_read_report_of_section_9 :
    let s := { joined with
      port := { joined.port with pendingReply := some [0x01] }
      reports := [.placed 2105 3 309 1 89, .laneNearFull 3 180] }
    let t := after .readReport s
    (t.port.dataOut, t.port.pendingReply, t.reports) =
      (.reply [0x01], some [0x00, 0x01, 0, 0, 0x08, 0x39, 3, 0x01, 0x35, 1, 0, 89], [.laneNearFull 3 180]) := by decide +kernel

/-- Section 12.2: INTENT notices of stations 1 and 2 begin with the bytes 0x11 and 0x12, and R107's check is computed over header and
body: the frame is read back. -/
theorem test_first_bytes_of_section_12_2 :
    let e : IntentEntry := ⟨3, .place, ⟨320, 38400, 206720, 89920⟩⟩
    (Frame.bytes ⟨1, 40, .intent e⟩).take 4 = [0x11, 40, 15, 3] ∧ (Frame.bytes ⟨2, 21, .intent e⟩).take 2 = [0x12, 21] := by decide +kernel

/-- Section 12.3: on the silence expiry T high is 28,400, PEER LOST comes first and LIMIT EXCESS (T high) second. -/
theorem test_silence_expiry_of_section_12_3 :
    let im := { deck with tMax := 100000, bounds := List.replicate 8 ⟨⟨0, -60000, 0, 0⟩, ⟨0, 60000, 0, 0⟩⟩ }
    let s := { joined with
      image := some im
      units := ⟨false, [], ⟨0, 10000, 0, 0⟩⟩
      peers := ⟨[{ peer 2 .locked with sums := ⟨0, -23400, 0, 0⟩ }, { peer 4 .locked with sums := ⟨0, 58400, 0, 0⟩ }], []⟩ }
    let t := after (.silenceExpiry 2) s
    ((excessNow t im).tHigh, t.view.limitExcess, t.reports, alarm t) = (28400, true, [.peerLost 2, .limitExcess 2], true) := by
  decide +kernel

/-- Section 12.5: the forced departure of 7102 leaves 7101 with U 168, and the SUMMARY takes SETTLE 5's place. -/
theorem test_forced_departure_of_section_12_5 :
    let a := held 7101 165 0 3 9 0 .parked
    let b := held 7102 138 0 2 9 168 .leaving
    let s := { joined with
      units := ⟨false, [a, b], a.contrib.add b.contrib⟩
      intents := ⟨[⟨6, .remove, 7102, b.contrib.neg, .unannounced⟩], 6⟩
      intake := [⟨.departure 7102, .placing 6, 0, false⟩]
      bus := { joined.bus with queue := [.settle 5, .intent ⟨6, .remove, b.contrib.neg⟩], frontSeq := some 60 } }
    let t := after (.forcedDeparture 7102) s
    (t.port.pendingReply, t.units.records, t.units.sums, occupied 3 t.units.records 9) =
      (some [0x00], [a], a.contrib, 168) ∧
    t.intents = ⟨[], 6⟩ ∧ (t.bus.queue, t.bus.frontSeq) = ([.summary], none) ∧ t.intake = [] ∧ t.reports = [] := by
  decide +kernel

/-- R173: a try that the memory leaves unanswered four times ends in FAULTED with NO_IMAGE. -/
theorem test_fourth_try_fails :
    let s := { State.reset with control := { State.reset.control with held := false, loader := .trying, tries := 3 } }
    let t := after (.loadTryFailed .writeAddress) s
    (t.control.station, t.control.fault, t.control.tries, alarm t) = (.faulted, some .noImage, 4, true) := by decide

/-- R173: the address 0x56 with the write bit goes on the link as 1010110 and 0, acknowledged low; a repeated start is an edge like the
first start; and the address for reading, left unacknowledged, has its ninth bit high. -/
theorem test_address_bytes_on_the_link :
    linkEvents (⟨true, true⟩ :: linkLines true (besideMemory true [] [.start, .send 0xAC, .start, .send 0xAD])) =
      [.start, .bit true, .bit false, .bit true, .bit false, .bit true, .bit true, .bit false, .bit false, .bit false,
        .start, .bit true, .bit false, .bit true, .bit false, .bit true, .bit true, .bit false, .bit true, .bit true] := by
  decide +kernel

/-- R173: the loader frees the link with nine pulses, the data line released, and a stop; it takes the marker's two bytes, the first
acknowledged and the last not. -/
theorem test_freeing_and_taking_on_the_link :
    linkEvents (linkLines true (besideMemory false [] freeLink)) = List.replicate 9 (.bit true) ++ [.stop] ∧
    linkEvents (linkLines false (besideMemory false [0x55, 0x36] (takeBytes 2))) =
      ([false, true, false, true, false, true, false, true, false, false, false, true, true, false, true, true, false, true].map .bit) ++
        [.stop] := by decide +kernel

/-- Section 11.2: the bytes of a WITHDRAW for tag 258, bytes after its body ignored, and a length the kind does not allow. -/
theorem test_request_bytes :
    requestOfBytes false false [0x12, 4, 0, 0, 1, 2, 0xAA] = some (.withdraw 258) ∧
    requestOfBytes false false [0x12, 3, 0, 0, 1] = none ∧ requestOfBytes false false [0x22, 5, 0, 0, 1, 2, 1] =
      some (.forcedDeparture 258) := by decide +kernel

/-- The check register of R107 over the nine bytes "123456789" is 0x29B1, the standard value of this polynomial and preset. -/
theorem test_frame_check : frameCheck [0x31, 0x32, 0x33, 0x34, 0x35, 0x36, 0x37, 0x38, 0x39] = 0x29B1#16 := by decide +kernel

/-! ### A whole image -/

/-- The 823 bytes behind the header of an image of the deck of section 3.5, with three lanes. -/
def imageBody : List Byte :=
  [1, 3, 3, 0x04, 0x4C, 0, 0, 0x9C, 0x40, 0, 60, 2, 0x58, 0x03, 0xE8, 3, 0x16, 1, 0, 1, 0] ++
    (List.replicate 24 [0x07, 0x08, 0x05, 0xDC, 0xFF, 0xC4, 0, 120, 32, 48, 40, 120, 0, 0x01, 0x90]).flatten ++
    [0, 60, 0, 0, 0, 0x20, 0, 0x08, 0] ++
    [0, 3, 0x0D, 0x40, 0, 2, 0x49, 0xF0, 0, 0xB7, 0x1B, 0, 0xFF, 0xFF, 0xFF, 0xF9, 0xE5, 0x80, 0, 0, 0, 0x09, 0x27, 0xC0] ++
    List.replicate 224 0 ++ (List.replicate 16 [0x1F, 0xFF, 1, 0, 250, 0x84, 0x61]).flatten ++
    (List.replicate 24 [0, 0, 0xFF]).flatten ++ [0]

/-- The sum that the check bytes carry. -/
def imageCheck : Nat := ((([0x55, 0x36, 1, 3, 0x3E] : List Byte) ++ imageBody).map BitVec.toNat).sum % 65536

/-- The image whole. -/
def image : List Byte := [0x55, 0x36, 1, 3, 0x3E] ++ beBytes 2 imageCheck ++ imageBody

/-- A station whose image read is in progress. -/
def loading : State := { State.reset with control := { State.reset.control with held := false, loader := .trying } }

/-- That station with its port ready. -/
def loaded : State := { loading with port := joined.port }

theorem test_image_loads :
    let t := after (.imageLoadEnd image) loading
    t.control.station = .listening ∧ (t.image.map fun im => [im.laneCount, im.dMax, im.lifetime]) = some [3, 40000, 600] ∧
      (t.image.map fun im => [im.wMin, im.wMax, (im.lane 2).y]) = some [-400000, 600000, -60] := by decide +kernel

/-! ### Witnesses: states and operands that meet the hypotheses of the statements -/

theorem witness_StepRunsFrontCommand : step { joined with pending := [.null, .readReport] } = exec .null { joined with pending := [.readReport] } :=
  rfl

/-- The cases of the step on an empty queue; and a tick on which the listen timer reaches its interval, a wait timer its limit. -/
theorem witness_EmptyQueueStep :
    State.reset.pending = [] ∧ State.reset.control.held = true ∧
    worked.pending = [] ∧ worked.control.held = false ∧ (arrivalDue worked).isSome = true ∧
    leaving1.pending = [] ∧ (arrivalDue leaving1).isSome = false ∧ (departureDue leaving1).isSome = true ∧
    joined.pending = [] ∧ (arrivalDue joined).isSome = false ∧ (departureDue joined).isSome = false ∧
    let s := { placing .unannounced with
      control := { joined.control with listen := some 3999 }
      bus := { joined.bus with heartbeat := none }
      intake := [⟨.placedArrival 5, .placing 3, 59999, false⟩, ⟨.departure 8, .held .profile, 59998, false⟩]
      peers := ⟨[{ peer 2 .locked with silence := .running 2999 }, { peer 4 .lost with silence := .atLimit }], []⟩ }
    arrivalDue s = none ∧ departureDue s = none ∧
      (idle s).pending = [.listenExpiry, .waitLimitExpiry 5, .silenceExpiry 2] := by decide +kernel

theorem witness_RequestNotReceived :
    isRequest .null = true ∧ ¬ Received State.reset ∧ isRequest (.badRequest []) = true ∧
      ¬ Received { joined with port := { joined.port with rdy := false } } := by decide

/-- Received: RDY high, or a selection begun in progress; in every station state. -/
theorem witness_Received :
    Received joined ∧ Received { joined with port := { joined.port with rdy := false, selection := true } } ∧
    Received (inState .loading joined) ∧ Received (inState .faulted joined) ∧ Received (inState .listening joined) ∧
    Received (inState .restoring joined) ∧ Received (inState .quiet joined) := by decide

theorem witness_LoadTries :
    (loading.control.held = false ∧ loading.control.station = .loading ∧ loading.control.loader = .trying) ∧
    let s := fun ms => { loading with control := { loading.control with loader := .waiting ms } }
    (∀ ms ∈ [19, 20], (s ms).control.held = false ∧ (s ms).control.station = .loading ∧ (s ms).control.loader = .waiting ms) ∧
      (after .loadRetry (s 20)).control.loader = .trying ∧ after .loadRetry (s 19) = s 19 := by decide +kernel

theorem witness_ImageLoadOutcome :
    image.length = 830 ∧ loading.control.held = false ∧ loading.control.station = .loading ∧ loading.control.loader = .trying := by
  decide +kernel

/-- Each outcome of the load: marker, version, length, check and range failing alone, and the image that passes. -/
theorem witness_ImageLoadOutcome_clauses :
    ([image.set 1 0x37, image.set 2 2, image.set 4 0x3F, image.set 6 (byteField image 6 + 1), (image.set 8 25).set 6 (byteField image 6 + 22),
        image].map fun i => (i.length, (after (.imageLoadEnd i) loading).control.fault, (after (.imageLoadEnd i) loading).control.station)) =
      [(830, some .badMarker, .faulted), (830, some .badVersion, .faulted), (830, some .badLength, .faulted),
        (830, some .badCheck, .faulted), (830, some (.badRange 1), .faulted), (830, none, .listening)] := by decide +kernel

theorem witness_AcceptedImageInRange : image.length = 830 ∧ faultySection image = none := by decide +kernel

/-- A station LISTENING, with the restore request mark as given. -/
def listening (mark : Bool) : State :=
  { inState .listening joined with
    control := { joined.control with station := .listening, listen := some 4000, restoreMark := mark } }

/-- The listen interval (3 + 1) × 1000 reached, with the mark and without, and not reached. -/
theorem witness_ListenExpiryOutcome :
    (∀ mark ∈ [true, false], (listening mark).image = some deck ∧ (listening mark).control.station = .listening ∧
      (listening mark).control.listen = some 4000) ∧
    (after .listenExpiry (listening true)).control.station = .restoring ∧
    (after .listenExpiry (listening false)).control.station = .joined ∧
    let s := { listening false with control := { (listening false).control with listen := some 3999 } }
    after .listenExpiry s = s := by decide +kernel

theorem witness_RestoreUnitOutcome :
    Received (inState .restoring joined) ∧ replied (.restoreUnit 3 0 (raw 8)) loaded = some [0x0A] ∧
      replied (.restoreUnit 3 0 (raw 8)) (inState .faulted loaded) = some [0x0A] := by decide +kernel

/-- R178 at its bounds behind a unit that ends at 165: offset 168 is U and taken, 167 is not; 1364 ends at Λ and is taken, 1365 is not;
lane 12 names no lane; a tag held; a record of 251 dm. -/
theorem witness_RestoreUnitOutcome_clauses :
    let s := inState .restoring { joined with units := ⟨false, [held 1 165 0 1 3 0 .parked], Quad.zero⟩ }
    ([(3, 168, raw 8), (3, 167, raw 8), (3, 1364, raw 8), (3, 1365, raw 8), (12, 168, raw 8), (3, 168, raw 1),
        (3, 168, { raw 8 with length := 251 })].map fun (x : Byte × BitVec 16 × RawUnit) => replied (.restoreUnit x.1 x.2.1 x.2.2) s) =
      [some [0], some [8], some [0], some [8], some [8], some [4], some [8]] := by decide +kernel

theorem witness_PortSelections :
    joined.control.held = false ∧ joined.port.rdy = true ∧
    (let p : Port := { joined.port with dataOut := .reply [1, 2] }
     p.dataOut = .reply [1, 2] ∧ shiftedOut p 1 = some 2 ∧ shiftedOut p 2 = some 0xFF ∧
       (List.range 16).map (shiftedOutBit p) = (List.range 16).map (fun bit => some (bit == 7 || bit == 14))) ∧
    takenIn [false, false, false, true, false, false, true, false, true, true] = [0x12] ∧
    (let p : Port := { joined.port with dataOut := .marker }; p.dataOut = .marker ∧ shiftedOut p 0 = some 0xA5) := by decide

theorem witness_NullCopiesPendingReply :
    replied .null joined = some [0] ∧
      replied .null { joined with port := { joined.port with pendingReply := some [0, 3, 7] } } = some [0, 3, 7] := by decide

theorem witness_BadRequestRefused :
    Received joined ∧ wellFramed [] = false ∧ wellFramed [0x00] = false ∧ wellFramed [0x12, 5, 0, 0, 0, 0, 0] = false ∧
      wellFramed [0x12, 4, 0, 0, 0] = false ∧ wellFramed [0x60, 0] = false ∧ wellFramed [0x12, 4, 0, 0, 0, 0] = true := by decide +kernel

theorem witness_ReadsChangeNothing :
    replied .readStatus (inState .loading joined) = some [0x0A] ∧ (replied .readStatus joined).map List.length = some 46 ∧
      (replied .readShipView joined).map List.length = some 143 := by decide +kernel

/-- The bounds of R163, R165 and R167: lane 11 is the last, station number 7 the last, plan code 2 the last. -/
theorem witness_ReadReplyShapes :
    worked.image = some deck ∧
    ([(.readLane 11 0), (.readLane 12 0), (.readLane 3 1), (.readPeer 7), (.readPeer 8), (.readPeer 2), (.readUnit 2), (.readUnit 3),
        (.readPlan 0 11), (.readPlan 2 11), (.readPlan 3 0), (.readPlan 0 12)].map fun c => (replied c worked).map List.length) =
      [some 12, some 1, some 29, some 3, some 1, some 29, some 42, some 1, some 13, some 8, some 1, some 1] ∧
    (inState .faulted loaded).image = none ∧ (inState .faulted loaded).control.station = .faulted ∧
      worked.control.station ≠ .faulted ∧ loaded.intake = [] := by decide +kernel

/-- So many reports. -/
def reports (n : Nat) : List Report := List.replicate n .excessCleared

/-- READ REPORT on none held, on one, on 28 with a marked entry (27 remain, the entry is refused), on 29 (28 remain, it is not). -/
theorem witness_ReadReportOutcome :
    let s := fun n => { worked with intake := [⟨.arrival (unit 7 136 0 2), .waiting, 60000, true⟩], reports := reports n }
    Received (s 0) ∧ ([0, 1, 28, 29].map fun n => ((replied .readReport (s n)), (after .readReport (s n)).reports.length,
        (after .readReport (s n)).intake.length)) =
      [(some [0x0C], 0, 1), (some [0, 0x0A], 1, 0), (some [0, 0x0A], 28, 0), (some [0, 0x0A], 28, 1)] := by decide +kernel

/-- Each answer of R23, at its bounds: the eighth entry is taken and the ninth not; 250 dm is a record and 251 dm none; a held tag. -/
theorem witness_SubmitArrivalOutcome :
    let s := fun n => { worked with intake := (List.range n).map fun i => ⟨.departure (BitVec.ofNat 32 (i + 20)), .waiting, 0, false⟩ }
    Received (s 7) ∧
    [replied (.submitArrival (raw 9)) (s 7), replied (.submitArrival (raw 9)) (s 8),
      replied (.submitArrival { raw 9 with length := 250 }) (s 7), replied (.submitArrival { raw 9 with length := 251 }) (s 7),
      replied (.submitArrival (raw 1)) (s 7), replied (.submitArrival (raw 9)) (inState .quiet (s 7))] =
      [some [1], some [2], some [1], some [3], some [4], some [0x0A]] := by decide +kernel

theorem witness_ClampedWithinRanges : ¬ BadRecord 12 (raw 9) ∧ ¬ BadRecord 12 { raw 9 with preferred := some 11 } ∧
    BadRecord 12 { raw 9 with preferred := some 12 } := by decide

theorem witness_SubmitDepartureOutcome :
    Received leaving1 ∧
    [replied (.submitDeparture 5) { leaving1 with intake := [] }, replied (.submitDeparture 5) leaving1,
      replied (.submitDeparture 6) leaving1, replied (.submitDeparture 5) (placing .overdue),
      replied (.submitDeparture 5) (inState .faulted leaving1),
      replied (.submitDeparture 1) { worked with intake := List.replicate 8 ⟨.departure 2, .waiting, 0, false⟩ }] =
      [some [1], some [4], some [5], some [6], some [0x0A], some [2]] := by decide +kernel

theorem witness_WithdrawOutcome :
    Received leaving1 ∧
    [replied (.withdraw 5) leaving1, replied (.withdraw 6) leaving1, replied (.withdraw 5) (placing .unannounced),
      replied (.withdraw 5) (inState .loading leaving1)] = [some [0], some [5], some [9], some [0x0A]] := by decide +kernel

/-- The wait limit reached at 27 and at 28 reports held, and on an entry that is PLACING; and not reached. -/
theorem witness_WaitLimitOutcome :
    let s := fun ms => { leaving1 with reports := reports 27, intake := [⟨.departure 5, .waiting, ms, false⟩] }
    (s 60000).image = some deck ∧ (after (.waitLimitExpiry 5) (s 60000)).intake = [] ∧
    (after (.waitLimitExpiry 5) (s 59999)) = s 59999 ∧
    (after (.waitLimitExpiry 5) { s 60000 with reports := reports 28 }).intake = [⟨.departure 5, .waiting, 60000, true⟩] ∧
    (after (.waitLimitExpiry 5) { placing .unannounced with intake := [⟨.placedArrival 5, .placing 3, 60000, false⟩] }).intake =
      [⟨.placedArrival 5, .placing 3, 60000, true⟩] := by
  decide +kernel

theorem witness_LaneChecks : reached worked deck (candidateFor worked deck (unit 7 136 0 2) 4) = some .power ∧
    reached worked deck (candidateFor worked deck (unit 7 136 0 2) 8) = none := by decide +kernel

/-- All three outcomes of an arrival: placed, held at C8 with both lanes blocked, and refused at C2 for an axle no lane bears. -/
theorem witness_ArrivalOutcome :
    let blocked := { worked with plans := { worked.plans with lanes := List.replicate 12 ⟨none, true, false⟩ } }
    0 < deck.laneCount ∧ outcomeOf blocked deck (unit 7 136 0 2) = .held .laneState ∧
      outcomeOf worked deck { unit 7 136 0 2 with axle := 121 } = .refused .axle ∧
      (after .evaluateArrival blocked).intake.map Entry.state = [.held .laneState] := by decide +kernel

/-- The weights, the window and the free room of lane 3 of section 3.5; and a list limit of 0 with a window of zero width. -/
theorem witness_ScoreRule :
    let c := candidateFor worked deck (unit 7 136 0 2) 3
    let p := effectiveProfile deck worked.plans c.lane
    let z := { deck with tMax := 0 }
    p.wH ≤ 15 ∧ p.wT ≤ 15 ∧ p.wO ≤ 15 ∧ p.wF ≤ 15 ∧ 0 < deck.tMax ∧ worked.view.wMin < worked.view.wMax ∧
      c.offset + c.unit.length ≤ (deck.lane 3).len ∧ 20 ≤ c.unit.length ∧
      score { worked with view := ⟨0, 0, false⟩ } z c = 8 * 1000 + 4 * 1000 + 1 * 703 := by decide +kernel

/-- The gate is open with three open intents and 27 reports, closed with four and with 28. -/
theorem witness_EvaluateArrivalOutcome :
    let it : Intent := ⟨3, .place, 5, Quad.zero, .overdue⟩
    let s := fun (n m : Nat) => { worked with intents := ⟨List.replicate n it, 3⟩, reports := reports m }
    worked.image = some deck ∧ gateOpen worked = true ∧
      (worked.intake.find? fun e => e.state == .waiting && !e.expired).map Entry.ask = some (.arrival (unit 7 136 0 2)) ∧
      gateOpen (s 3 27) = true ∧ gateOpen (s 4 27) = false ∧ gateOpen (s 3 28) = false := by decide +kernel

/-- A departure that passes, one whose unit is not at the exit, one from a blocked lane. -/
theorem witness_EvaluateDepartureOutcome :
    leaving1.image = some deck ∧ gateOpen leaving1 = true ∧
      (leaving1.intake.find? fun e => e.state == .waiting && !e.expired).map Entry.ask = some (.departure 5) ∧
      leaving1.units.find 5 = some (held 5 136 0 2 3 0 .parked) ∧
      (after .evaluateDeparture leaving1).units.records = [held 5 136 0 2 3 0 .leaving] ∧
      (after .evaluateDeparture { worked with intake := [⟨.departure 2, .waiting, 0, false⟩] }).reports = [.refused 2 .notAtExit] ∧
      (after .evaluateDeparture { leaving1 with plans := { leaving1.plans with lanes := List.replicate 12 ⟨none, true, false⟩ } }).intake =
        [⟨.departure 5, .held .laneState, 0, false⟩] := by decide +kernel

theorem witness_RecheckRule :
    (placing .unannounced).units.find 5 = some (held 5 136 0 2 3 0 .pending) ∧
    ((placing .unannounced).intents.open_.all fun it => recheck (placing .unannounced) deck it) = true ∧
    (removing .unannounced).units.find 5 = some (held 5 136 0 2 3 0 .leaving) ∧
    ((removing .unannounced).intents.open_.all fun it => recheck (removing .unannounced) deck it) = true := by decide +kernel

theorem witness_LimitCheckRule :
    0 < deck.tMax ∧ worked.view.wMin < worked.view.wMax ∧ 0 < deck.mMax ∧ 0 < deck.vMax ∧ ({ deck with tMax := 0 } : Image).tMax = 0 ∧
    (excessOf deck worked.view (viewLow worked deck none Quad.zero) (viewHigh worked deck none Quad.zero)).any = false := by
  decide +kernel

theorem witness_EvaluationNeverRaisesExcess :
    worked.image = some deck ∧ exec .evaluateArrival worked = .next (after .evaluateArrival worked) ∧
      worked.view.limitExcess = (excessNow worked deck).any ∧ worked.view.limitExcess = false :=
  ⟨rfl, rfl, by decide +kernel, rfl⟩

/-- A view that begins to exceed, with 23 and with 24 reports held. -/
theorem witness_SettleAdmitRelease :
    let s := fun n => { worked with units := { worked.units with sums := ⟨300000, 0, 0, 0⟩ }, reports := reports n }
    (s 0).image = some deck ∧ ((settle (s 23)).view.limitExcess, (settle (s 23)).reports.length) = (true, 24) ∧
      ((settle (s 24)).view.limitExcess, (settle (s 24)).reports.length) = (true, 24) ∧
      (⟨.departure 5, .held .laneState, 9, false⟩ : Entry).release = ⟨.departure 5, .waiting, 9, false⟩ ∧
      (attnDrive (s 0), attnDrive (s 1)) = (.low, .high) ∧
      (alarmDrive (s 0), alarmDrive (settle (s 0)), alarmDrive (inState .faulted loaded)) = (.released, .low, .low) := by decide +kernel

/-- Each closure taken, and WRONG_STATE on an UNANNOUNCED intent and on a record of the other kind. -/
theorem witness_ClosureOutcome :
    Received (placing .overdue) ∧ Received (removing .overdue) ∧
    (placing .overdue).units.find 5 = some (held 5 136 0 2 3 0 .pending) ∧
    (removing .overdue).units.find 5 = some (held 5 136 0 2 3 0 .leaving) ∧
    [replied (.reportParked 5) (placing .overdue), replied (.reportAbandoned 5) (placing (.announced 3)),
      replied (.reportDeparted 5) (removing .overdue), replied (.reportStayed 5) (removing .overdue),
      replied (.reportParked 5) (placing .unannounced), replied (.reportDeparted 5) (placing .overdue),
      replied (.reportParked 6) (placing .overdue)] = [some [0], some [0], some [0], some [0], some [6], some [6], some [5]] := by
  decide +kernel

theorem test_closures :
    (after (.reportParked 5) (placing .overdue)).units = leaving1.units ∧
    (after (.reportParked 5) (placing .overdue)).bus.queue = [.settle 3] ∧
    (after (.reportAbandoned 5) (placing .overdue)).units.records = [] ∧
    (after (.reportDeparted 5) (removing .overdue)).units.sums = Quad.zero ∧
    (after (.reportStayed 5) (removing .overdue)).units = leaving1.units ∧
    (after (.reportStayed 5) (removing .overdue)).bus.queue = [.retract 5] := by decide +kernel

/-- Every case of R100: PARKED, LEAVING unannounced and announced, PENDING, and a tag not held. -/
theorem witness_ForcedDepartureOutcome :
    Received leaving1 ∧
    [replied (.forcedDeparture 5) leaving1, replied (.forcedDeparture 5) (removing .unannounced),
      replied (.forcedDeparture 5) (removing .overdue), replied (.forcedDeparture 5) (placing .overdue),
      replied (.forcedDeparture 9) leaving1] = [some [0], some [0], some [0], some [6], some [5]] := by decide +kernel

theorem witness_CancellationSteps :
    (let s := placing .unannounced
     (∀ it ∈ s.intents.open_, it.dir = .place) ∧ (∀ r ∈ s.units.records, r.unit.tag = 5 → r.state = .pending) ∧
       s.intake.findIdx? (fun x => x.state == .placing 3) = some 0) ∧
    ∀ it ∈ (removing .unannounced).intents.open_, it.dir = .remove := by decide +kernel

/-- The lifetime of 600 s and the heartbeat of 1000 ms reached, and one ms before. -/
theorem witness_LifetimeAndHeartbeat :
    (∀ ms ∈ [599999, 600000], (placing (.announced ms)).image = some deck ∧
      (placing (.announced ms)).intents.open_.find? (fun x => x.id == 3) =
        some ⟨3, .place, 5, (held 5 136 0 2 3 0 .pending).contrib, .announced ms⟩) ∧
    (after (.lifetimeExpiry 3) (placing (.announced 600000))).reports = [.overdue 5 3] ∧
    (after (.lifetimeExpiry 3) (placing (.announced 599999))).reports = [] ∧ joined.bus.heartbeat = some 1000 ∧
    (after .heartbeatExpiry joined).bus.queue = [.summary] ∧
    (after .heartbeatExpiry { joined with bus := { joined.bus with heartbeat := some 999 } }).bus.queue = [] := by decide +kernel

/-- R89 at the wrap: counter 15 with id 0 open gives id 1; and with fifteen intents open the one free id. -/
theorem witness_NextIntentIdFree :
    let it := fun (n : IntentId) => (⟨n, .place, 5, Quad.zero, .overdue⟩ : Intent)
    let full : IntentTable := ⟨((List.finRange 16).filter fun n => n != 6).map it, 7⟩
    (⟨[it 0], 15⟩ : IntentTable).nextId = 1 ∧ full.open_.length = 15 ∧ full.nextId = 6 := by decide +kernel

/-- The front notice of each kind at exactly its waiting time, first attempt and retry; a line on which a frame has just been judged;
and the list of a SUMMARY, whose ids are distinct. -/
theorem witness_AttemptStartOutcome :
    let s := fun n a => { placing .unannounced with bus := { joined.bus with queue := [n], attempts := a } }
    let intentNotice : Notice := .intent ⟨3, .place, (held 5 136 0 2 3 0 .pending).contrib⟩
    (∀ n ∈ [Notice.summary, .settle 4, .retract 4, intentNotice], (s n 0).image = some deck ∧ (s n 0).bus.queue = [n] ∧
      (s n 0).control.held = false ∧ (s n 0).control.station = .joined ∧ (s n 0).bus.sending = none ∧
      (after (.attemptStart 16) (s n 0)).bus.sending.isSome = true ∧ (after (.attemptStart 15) (s n 0)).bus.sending = none) ∧
    (after (.attemptStart 32) (s .summary 1)).bus.sending.isSome = true ∧
    (after (.attemptStart 31) (s .summary 1)).bus.sending = none ∧
    (after (.attemptStart 900) { s .summary 1 with bus := { (s .summary 1).bus with line := .judged } }).bus.sending = none ∧
    ((placing .overdue).intents.open_.map Intent.id).Nodup ∧ (summaryList (placing .overdue).intents).map IntentEntry.id = [3] ∧
    summaryList (placing .unannounced).intents = [] := by decide +kernel

/-- R150: a marked entry whose intent is cancelled on a DEFERRED lane; LANE ENTRY APPLIED comes before REFUSED. -/
theorem test_cancellation_posts_lane_entry_first :
    let s := { placing .unannounced with
      intake := [⟨.placedArrival 5, .placing 3, 60000, true⟩]
      plans := { joined.plans with lanes := List.replicate 12 ⟨some ⟨true, none, none⟩, false, false⟩ } }
    (after (.attemptStart 16) s).reports = [.laneEntryApplied 3 0, .refused 5 .waitLimit] := by decide +kernel

theorem test_failed_recheck_cancels :
    let s := { placing .unannounced with plans := { joined.plans with lanes := List.replicate 12 ⟨none, true, false⟩ } }
    let t := after (.attemptStart 16) s
    (t.bus.queue, t.units.records, t.intents.open_, t.intake) = ([], [], [], [⟨.arrival (unit 5 136 0 2), .waiting, 40, false⟩]) := by
  decide +kernel

/-- A station with an attempt of the given front notice in progress. -/
def sending (n : Notice) : State :=
  { placing .unannounced with bus := { joined.bus with queue := [n], sending := some [0x14], attempts := 255, line := .running } }

theorem witness_LineEvents :
    (sending .summary).bus.sending.isSome = true ∧ (after .collision (sending .summary)).bus.attempts = 255 ∧
    joined.control.held = false ∧ frameOfBytes [⟨0x11, true⟩] = none ∧ joined.bus.sending = none ∧
    (after (.invalidFrame [⟨0x11, true⟩]) joined).bus.line = .judged ∧
    (after .lineIdle (after (.invalidFrame [⟨0x11, true⟩]) joined)).bus.line = .idle := by
  decide +kernel

/-- Section 12.2 with R106: the first bytes 0x11 and 0x12 of two stations that begin together; a start bit, 0x11 and a stop bit go on the
line; the station that sends 0x12 collides at the byte's seventh bit, its 1 overridden, and releases the line, and the other one
completes. -/
theorem test_collision_of_section_12_2 :
    (List.range 10).map (drives { joined with bus := { joined.bus with sending := some [0x11] } }) =
      [.dominant, .dominant, .dominant, .dominant, .recessive, .dominant, .dominant, .dominant, .recessive, .recessive] ∧
    firstDifference (byteLevels 0x12) (together (byteLevels 0x12) (byteLevels 0x11)) = some 7 ∧
    firstDifference (byteLevels 0x11) (together (byteLevels 0x11) ((byteLevels 0x12).take 7 ++ List.replicate 3 .recessive)) = none := by
  decide +kernel

theorem witness_AttemptCompleteOutcome :
    let e : IntentEntry := ⟨3, .place, (held 5 136 0 2 3 0 .pending).contrib⟩
    (∀ n ∈ [Notice.summary, .settle 4, .retract 4, .intent e], (sending n).image = some deck ∧ (sending n).bus.queue = n :: [] ∧
      (sending n).bus.sending.isSome = true ∧ (after .attemptComplete (sending n)).bus.counter = 1) ∧
    (after .attemptComplete (sending (.intent e))).intents.open_.map Intent.state = [.announced 0] ∧
    (after .attemptComplete (sending (.intent e))).reports.map Report.isDecision = [true] := by decide +kernel

theorem witness_SummaryStandsForClosures :
    Notice.summary ∈ (sending .summary).bus.queue ∧ Notice.summary ∉ (sending (.settle 4)).bus.queue ∧
    Notice.summary ∉ joined.bus.queue ∧ ((sending .summary).bus.handOnClosure (.retract 5)).refresh = true ∧
    ((sending (.settle 4)).bus.handOnClosure (.retract 5)).askSummary.queue = [.settle 4, .summary] := by decide

theorem witness_FrameRoundTrip :
    (FrameBody.intent ⟨15, .remove, ⟨-600, -240000, 3000000, -510000⟩⟩).valid = true ∧
    (FrameBody.settle 0 ⟨307200, -122880000, 1536000000, 261120000⟩).valid = true ∧ (FrameBody.retract 15).valid = true ∧
    (FrameBody.summary Quad.zero 512 [⟨0, .place, ⟨5, 0, 0, 0⟩⟩, ⟨15, .remove, ⟨-5, 0, 0, 0⟩⟩]).valid = true := by decide

theorem witness_RequestRoundTrip :
    (Instr.withdraw 258).wellFormed = true ∧ requestBytes (.withdraw 258) = some [0x12, 4, 0, 0, 1, 2] ∧
    (Instr.restart true true).wellFormed = true ∧ requestBytes (.restart true true) = some [0x5F, 0] ∧
    (Instr.loadPlanActive 0 0xFF (List.replicate 24 ⟨1, 6, 15⟩)).wellFormed = true ∧
    (requestBytes (.loadPlanActive 0 0xFF (List.replicate 24 ⟨1, 6, 15⟩))).map List.length = some 77 := by decide +kernel

theorem witness_SentFramesValid :
    let s := placing .overdue
    let e : IntentEntry := ⟨3, .place, ⟨320, 38400, 305600, 89920⟩⟩
    sumsValid s.units.sums = true ∧ s.units.records.length ≤ 512 ∧ s.intents.open_.length ≤ 4 ∧
      (∀ it ∈ s.intents.open_, entryValid ⟨it.id, it.dir, it.delta⟩ = true) ∧ entryValid e = true := by decide +kernel

/-- A frame of each sort of station number: the station's own, an expected peer's, a stray one; and one that started before service. -/
theorem witness_ReceiveOutcome :
    joined.control.held = false ∧ joined.bus.line = .idle ∧
    (after (.receiveRetract ⟨2, 14, true⟩ 3) joined).bus.line = .judged ∧
    (after (.receiveRetract ⟨1, 14, true⟩ 3) joined).control.station = .quiet ∧
    (after (.receiveSettle ⟨2, 14, true⟩ 3 ⟨0, 7, 0, 0⟩) joined).peers.peers.map (fun p => p.sums.t) = [7, 0] ∧
    (after (.receiveIntent ⟨7, 14, true⟩ ⟨3, .place, ⟨5, 0, 0, 0⟩⟩) joined).reports = [.strayStation 7] ∧
    (after (.receiveSummary ⟨2, 14, false⟩ ⟨0, 7, 0, 0⟩ 0 []) joined).peers = joined.peers := by decide +kernel

theorem witness_PeerRecordAfterFrame :
    let p := { peer 4 .locked with recorded := [⟨0, .place, Quad.zero⟩, ⟨1, .place, Quad.zero⟩, ⟨2, .place, Quad.zero⟩, ⟨3, .place, Quad.zero⟩] }
    let q := p.take ⟨4, 14, .intent ⟨4, .place, ⟨5, 0, 0, 0⟩⟩⟩
    (q.lock, q.recorded.map IntentEntry.id) = (.doubtful, [1, 2, 3, 4]) ∧
      (p.take ⟨4, 13, .retract 0⟩).recorded.length = 4 ∧
      ({ p with lastSeq := some 255 }.take ⟨4, 0, .retract 0⟩).lock = .locked := by decide +kernel

theorem witness_PeerChangeHandsOn :
    (let p := peer 2 .locked; ¬ (p.sums ≠ p.sums ∨ p.lock ≠ p.lock)) ∧
    (peer 2 .locked).lock ≠ (peer 2 .lost).lock ∧
    (putPeer (peer 2 .locked) (peer 2 .lost) joined).reports = [.peerLost 2] ∧
    (putPeer (peer 4 .lost) (peer 4 .locked) joined).reports = [.peerRegained 4] := by decide +kernel

theorem witness_QuietEntry :
    ∀ st ∈ [StationState.listening, .restoring, .joined], let s := inState st (placing .unannounced)
      s.image = some deck ∧ s.control.held = false ∧ s.bus.line = .idle ∧
      (s.control.station = .listening ∨ s.control.station = .restoring ∨ s.control.station = .joined) ∧
      (FrameBody.retract 3).valid = true ∧ (s.intents.open_.filter fun it => it.state == .unannounced).length ≤ 1 ∧
      (after (.receiveRetract ⟨1, 14, true⟩ 3) s).intake = [⟨.arrival (unit 5 136 0 2), .waiting, 40, false⟩] ∧
      (after (.receiveRetract ⟨1, 14, true⟩ 3) s).reports = [.duplicateNumber 1] := by decide +kernel

/-- The silence limit 3 × 1000 reached; and R139: a frame handled first restarts the timer, which does not expire. -/
theorem witness_SilenceOutcome :
    joined.image = some deck ∧ joined.peers.find 2 = some (peer 2 .locked) ∧ (peer 2 .locked).silence = .running 3000 ∧
    joined.peers.find 4 = some (peer 4 .lost) ∧ (peer 4 .lost).silence = .running 3000 ∧
    (after (.silenceExpiry 2) (after (.receiveRetract ⟨2, 14, true⟩ 3) joined)).reports = [] ∧
    (after (.silenceExpiry 2) joined).peers.peers.map Peer.lock = [.lost, .lost] ∧
    (after (.silenceExpiry 4) joined).reports = [] := by decide +kernel

/-- A window at the ends of its range is taken, one beyond it and one whose ends are crossed are not. -/
theorem witness_SetTrimWindowOutcome :
    Received joined ∧
    [replied (.setTrimWindow (BitVec.ofInt 48 (-12288000000)) (BitVec.ofInt 48 12288000000)) joined,
      replied (.setTrimWindow (BitVec.ofInt 48 (-12288000001)) 0) joined, replied (.setTrimWindow 0 (BitVec.ofInt 48 12288000001)) joined,
      replied (.setTrimWindow 1 0) joined, replied (.setTrimWindow 0 0) (inState .quiet joined)] =
      [some [0], some [8], some [8], some [8], some [0x0A]] := by decide +kernel

/-- R145 at its bounds: first lane 11 and 12, nothing carried, each code at its last value and past it, and the targets. -/
theorem witness_LoadPlanOutcome :
    Received joined ∧
    [replied (.loadPlanActive 11 0xFF [⟨1, 6, 15⟩]) joined, replied (.loadPlanActive 12 0xFF [⟨1, 6, 15⟩]) joined,
      replied (.loadPlanActive 0 0xFF []) joined, replied (.loadPlanActive 0 15 []) joined, replied (.loadPlanActive 0 16 []) joined,
      replied (.loadPlanActive 0 0 [⟨2, 0, 0⟩]) joined, replied (.loadPlanActive 0 0 [⟨0, 7, 0⟩]) joined,
      replied (.loadPlanActive 0 0 [⟨0, 0, 16⟩]) joined, replied (.loadPlanActive 0 0 []) { joined with image := some { deck with switchMode := .line } },
      replied (.loadPlanStaged 2 0 0 []) joined, replied (.loadPlanStaged 3 0 0 []) joined] =
      [some [0], some [8], some [8], some [0], some [8], some [8], some [8], some [8], some [7], some [0], some [8]] := by
  decide +kernel

/-- R145's own example: first lane 11 of a deck of 12 with two entries, and only the first is taken. -/
theorem test_load_plan_ignores_lanes_beyond :
    let t := after (.loadPlanStaged 1 11 0xFF [⟨1, 2, 3⟩, ⟨1, 2, 3⟩]) joined
    (t.plans.stagedA.entry 11, t.plans.stagedA.entry 12, t.plans.stagedA.dflt) = (⟨true, some 2, some 3⟩, openEntry, 0) := by
  decide +kernel

theorem witness_PlanSwitchCommands :
    let s := fun m => { joined with image := some { deck with switchMode := m } }
    Received (s .line) ∧
    [replied (.selectStaged 2) (s .line), replied (.selectStaged 3) (s .line), replied (.selectStaged 1) (s .request),
      replied (.switchPlan 1) (s .request), replied (.switchPlan 0) (s .request), replied (.switchPlan 1) (s .direct)] =
      [some [0], some [8], some [7], some [0], some [8], some [7]] ∧
    (after .switchEdge (s .request)).plans.generation = 0 ∧ (after .switchEdge (s .request)).plans.switchLevel = true ∧
    (after .switchNegated (after .switchEdge (s .line))).plans.switchLevel = false := by decide +kernel

theorem witness_BlocksAndPanel :
    Received joined ∧
    [replied (.blockLane 11) joined, replied (.blockLane 12) joined, replied (.unblockLane 11) joined, replied (.unblockLane 12) joined] =
      [some [0], some [8], some [0], some [8]] ∧
    (after (.panelChange true) leaving1).reports = [.clearanceConflict 3 1] ∧
    (after (.panelChange false) { leaving1 with units := { leaving1.units with lowered := true } }).reports = [] := by decide +kernel

/-- Lane 3 passes its new threshold and is the one reported after PLAN SWITCHED. -/
theorem witness_SwitchOverLanes :
    let new : List (Nat × PlanEntry) := [(3, ⟨false, none, some 1⟩), (11, ⟨true, none, none⟩)]
    (switchOver deck new none { joined with units := ⟨false, [held 5 117 0 2 3 1200 .parked], Quad.zero⟩ }).reports =
      [.planSwitched 1 0, .laneNearFull 3 180] ∧
    (new.map Prod.fst).Nodup ∧
      (∀ x ∈ new, x.1 < joined.plans.lanes.length ∧ x.1 < joined.plans.active.entries.length) ∧
      deck.laneCount ≤ joined.plans.lanes.length := by decide +kernel

theorem witness_NearFullAndPending :
    let s := { placing .overdue with plans := { joined.plans with lanes := List.replicate 12 ⟨some ⟨true, none, none⟩, false, false⟩ } }
    11 < s.plans.lanes.length ∧ 11 < s.plans.active.entries.length ∧ (s.plans.lane 3).pending = some ⟨true, none, none⟩ ∧
      intentOnLane s 3 = true ∧ intentOnLane s 11 = false ∧ applyPending deck 3 s = s ∧
      (applyPending deck 11 s).plans.active.entry 11 = ⟨true, none, none⟩ := by decide +kernel

/-! The invariants on a station with an announced intent, whose next command closes it. -/

/-- The station of an overdue placement with REPORT PARKED waiting. -/
def closing : State := { placing .overdue with pending := [.reportParked 5] }

theorem witness_step_closing : step closing = .next (after (.reportParked 5) { closing with pending := [] }) := rfl

theorem witness_BoundsKept : Bounded closing ∧ OneSummary closing ∧ IntakeBounded closing := by
  unfold Bounded OneSummary IntakeBounded; decide +kernel

theorem witness_DeckSumsKept : DeckSumsAgree closing := by
  unfold DeckSumsAgree TagsDistinct; decide +kernel

theorem witness_ViewSettledKept : ViewSettled closing := by
  unfold ViewSettled RecordedIntentsProper
  exact ⟨show closing.view.limitExcess = (excessNow closing deck).any by decide +kernel, by decide +kernel⟩

theorem witness_LanesKept : LanesProper closing := by
  refine ⟨by decide +kernel, by decide +kernel, ?_⟩
  intro l
  have h : onLane closing.units.records l = if l = 3 then closing.units.records else [] := by
    by_cases e : l = 3
    · subst e; rfl
    · have e' : (3 == l) = false := by simpa using Ne.symm e
      simp [onLane, closing, placing, held, e, e']
  by_cases e : l = 3
  · subst e
    exact ⟨List.pairwise_singleton _ _, List.pairwise_singleton _ _, by decide +kernel, by decide +kernel⟩
  · simp [LaneProper, h, e]

theorem witness_IntentsKept : IntentsProper closing := by
  refine ⟨⟨by decide +kernel, by decide +kernel, ?_, ?_⟩, by unfold TagsDistinct; decide +kernel, by decide +kernel⟩
  · intro it hit
    simp only [closing, placing, List.mem_singleton] at hit
    subst hit
    exact ⟨held 5 136 0 2 3 0 .pending, by simp [closing, placing], rfl, rfl, rfl⟩
  · intro r hr _
    simp only [closing, placing, List.mem_singleton] at hr
    subst hr
    exact ⟨_, List.mem_singleton.2 rfl, rfl⟩

/-! ### Witnesses of the clauses under which nothing changes, and of the terms of the statements -/

/-- A part held in reset; one JOINED; one LOADING with no wait; a retry that is not due changes nothing. -/
theorem witness_LoadTries_unchanged :
    State.reset.control.held = true ∧ joined.control.station ≠ .loading ∧
    loading.control.station = .loading ∧ loading.control.loader = .trying ∧ after .loadRetry loading = loading := by decide +kernel

/-- The section that BAD_RANGE names: x_stop of lane 0, K, M_max, bounds of station 7, the threshold of profile 15, the deck default; a
fault in two sections is the first one's; lane place 3, at the lane count, is not checked, and lane 2 is. -/
theorem witness_ImageLoadOutcome_sections :
    joined.control.station ≠ .loading ∧
    [image.set 8 0, image.set 28 0xFF, image.set 388 0xFF, image.set 397 0xFF, image.set 617 0xFF, image.set 753 0xFF,
        image.set 829 16, (image.set 829 16).set 388 0xFF, image.set 73 0xFF, image.set 58 0xFF].map faultySection =
      [some 1, some 2, some 3, some 4, some 5, some 6, some 7, some 3, none, some 2] := by decide +kernel

/-- The last ten bytes of the image; x_mid of two bytes, the lowest window end of six signed ones, y of lane 2, the weights of profile 15,
and the expected peers 2 and 4 of station 1. -/
theorem witness_AcceptedImageInRange_clauses :
    820 + 10 ≤ image.length ∧
    let im := imageSettings image
    (im.xMid, im.wMin, (im.lane 2).y, im.expectedPeers) = (1100, -400000, -60, [2, 4]) ∧
    ((im.profiles.getD 15 Profile.none).wH, (im.profiles.getD 15 Profile.none).wF, (im.plan.entry 23).profile) = (8, 1, none) := by
  decide +kernel

theorem witness_ListenExpiryOutcome_unchanged :
    State.reset.image = none ∧ joined.control.station ≠ .listening ∧ after .listenExpiry joined = joined := by decide +kernel

/-- R156: the bits of 0x12 and of half a byte clocked in from a clock at rest, with the reply 0x81 on data-out bit by bit before and at
each rising edge, and filler after it; a byte clocked in makes no request, and 0x00 0x00 makes NULL. -/
theorem witness_PortSelections_lines :
    let bits := msbFirst 0x12 ++ [true, false, true, true]
    let p : Port := { joined.port with dataOut := .reply [0x81] }
    sampledIn (clockedIn bits) = bits ∧ takenIn (sampledIn (clockedIn bits)) = [0x12] ∧ 11 < bits.length ∧
    ((List.range 12).map fun k => (dataOutLine p (clockedIn bits)).getD (3 * k + 1) none) =
      [true, false, false, false, false, false, false, true, true, true, true, true].map some ∧
    (dataOutLine p (clockedIn bits)).length = 36 ∧ requestClockedIn false false (clockedIn (msbFirst 0x12)) = none ∧
    requestClockedIn false false (clockedIn (msbFirst 0 ++ msbFirst 0)) = some .null := by decide +kernel

/-- The table of section 11.2 at the ends of LOAD PLAN's lengths, and one past them. -/
theorem test_lengths :
    [(0x40, 3), (0x40, 75), (0x40, 78), (0x40, 4), (0x40, 0), (0x51, 19), (0x51, 20), (0x09, 0)].map (fun x => lengthAllowed x.1 x.2) =
      [true, true, false, false, false, true, false, false] := by decide

/-- Section 11.3: LANE NEAR FULL with a negative free length, REFUSED with NOT_AT_EXIT, and LIMIT EXCESS with Lo low and V high. -/
theorem test_report_records :
    (Report.laneNearFull 3 (-2)).bytes = [0x06, 3, 0xFF, 0xFE] ∧ (Report.refused 258 .notAtExit).bytes = [0x03, 0, 0, 1, 2, 8] ∧
    (Report.limitExcess (Excess.mk 0 0 0 0 5 7).sides).bytes = [0x09, 0x30] := by decide

theorem witness_WaitLimitOutcome_unchanged : State.reset.image = none ∧ after (.waitLimitExpiry 5) State.reset = State.reset := by decide

/-- Lookups at the last place, and one row of the matrix: groups 4 and 6 are marked, group 0 never. -/
theorem witness_LaneChecks_clauses :
    deck.lanes[11]? = some (deck.lane 11) ∧ openPlan.entries[23]? = some openEntry ∧
    joined.plans.lanes[11]? = some ⟨none, false, false⟩ ∧
    [marked deck.matrix 4 6, marked deck.matrix 6 4, marked deck.matrix 4 5, marked deck.matrix 0 6] = [true, true, false, false] := by
  decide

theorem witness_Evaluate_unchanged :
    gateOpen leaving1 = true ∧ (leaving1.intake.find? fun e => e.state == .waiting && !e.expired).map Entry.ask = some (.departure 5) ∧
    after .evaluateArrival leaving1 = leaving1 ∧
    gateOpen (inState .quiet leaving1) = false ∧ after .evaluateDeparture (inState .quiet leaving1) = inState .quiet leaving1 ∧
    (∀ r, worked.units.find 7 = some r → r.state ≠ .parked) ∧ after .evaluateDeparture worked = worked := by decide +kernel

theorem witness_SettleAdmitRelease_unchanged : State.reset.image = none ∧ settle State.reset = State.reset := by decide

/-- R91 and R110: cancelled at the front, the attempt count and the sequence number are new; the freed lane is re-armed, and no report is
posted. -/
theorem witness_CancellationSteps_front :
    let s := { placing .unannounced with
      bus := { (placing .unannounced).bus with attempts := 5, frontSeq := some 60 }
      plans := { joined.plans with lanes := List.replicate 12 ⟨none, false, true⟩ } }
    let it : Intent := ⟨3, .place, 5, (held 5 136 0 2 3 0 .pending).contrib, .unannounced⟩
    it.dir = .place ∧ s.units.find it.tag = some (held 5 136 0 2 3 0 .pending) ∧ joined.units.find it.tag = none ∧
    (let t := cancelSteps deck it s
    (t.bus.queue, t.bus.attempts, t.bus.frontSeq, (t.plans.lane 3).reported, (t.plans.lane 4).reported, t.reports) =
      ([], 0, none, false, true, [])) := by decide +kernel

theorem witness_LifetimeAndHeartbeat_unchanged :
    joined.intents.open_.find? (fun x => x.id == 3) = none ∧ (∀ it ∈ (placing .overdue).intents.open_, ∀ ms : Nat, it.state ≠ .announced ms) ∧
    State.reset.bus.heartbeat = none ∧ State.reset.image = none := by
  refine ⟨by decide, ?_, rfl, rfl⟩
  intro it h
  simp [placing] at h
  simp [h]

/-- R121, R111: QUIET, held in reset, no image, nothing queued, an attempt in progress. -/
theorem witness_AttemptStartOutcome_unchanged :
    State.reset.control.held = true ∧ State.reset.image = none ∧ (inState .quiet joined).control.station ≠ .joined ∧
    joined.bus.queue = [] ∧ (sending .summary).bus.sending ≠ none ∧ after (.attemptStart 900) (sending .summary) = sending .summary ∧
    after (.attemptStart 900) joined = joined := by decide +kernel

theorem witness_LineEvents_unchanged :
    joined.bus.sending = none ∧ after .collision joined = joined ∧ (sending .summary).bus.sending.isSome = true ∧
    after .lineIdle (sending .summary) = sending .summary ∧ after .attemptComplete joined = joined := by decide +kernel

theorem witness_SilenceOutcome_unchanged :
    joined.peers.find 7 = none ∧ ({ peer 2 .lost with silence := .atLimit }).silence = .atLimit ∧
    after (.silenceExpiry 7) joined = joined := by decide +kernel

theorem witness_FrameRoundTrip_converse :
    frameOfBytes (((Frame.bytes ⟨2, 7, .retract 3⟩).map fun b => ⟨b, true⟩) ++ [⟨0x55, false⟩]) = some ⟨2, 7, .retract 3⟩ := by
  decide +kernel

theorem witness_RequestRoundTrip_clauses :
    (requestBytes (.loadPlanStaged 2 0 0xFF [])).isSome = true ∧ (Instr.loadPlanStaged 2 0 0xFF []).wellFormed = true := by decide +kernel

end Sys2Proof.Tests
end

section
/-! PROOFS. Intake: how a submitted unit record is clamped (R24), and the ranges it then lies in (R5). -/

namespace Sys2Proof.Machine

open Sys2Proof.Safety

/-- A code of section 11.2 stands for the kind that has it. -/
theorem code_kindOfCode {k : Nat} (h : k ≤ 4) : ((kindOfCode k).getD .car).code = k :=
  match k, h with
  | 0, _ | 1, _ | 2, _ | 3, _ | 4, _ => rfl

theorem RawUnit.clamped_kind_code {u : RawUnit} (h : u.kind.toNat ≤ 4) : u.clamped.kind.code = u.kind.toNat :=
  code_kindOfCode h

theorem RawUnit.clamped_power_iff (u : RawUnit) : u.clamped.power = true ↔ u.power.toNat = 1 := by
  simp [RawUnit.clamped]

theorem RawUnit.clamped_unverified_iff (u : RawUnit) : u.clamped.unverified = true ↔ u.reading.toNat = 1 := by
  simp [RawUnit.clamped]

theorem RawUnit.clamped_preferred_lt {u : RawUnit} {laneCount : Nat}
    (h : ¬ u.preferred.any (fun p => decide (laneCount ≤ p.toNat)) = true) :
    ∀ p ∈ u.clamped.preferred, p < laneCount := by
  intro p hp
  obtain ⟨b, hb, rfl⟩ : ∃ b, u.preferred = some b ∧ b.toNat = p := by simpa [RawUnit.clamped] using hp
  simpa [hb] using h

/-- The sizes and the mass as clamped lie between their minima and the maxima of R23. -/
theorem RawUnit.clamped_sizes_inRange {u : RawUnit} (hlength : u.length.toNat ≤ 250) (hwidth : u.width.toNat ≤ 30)
    (hheight : u.height.toNat ≤ 50) (hmass : u.mass.toNat ≤ 600) :
    20 ≤ u.clamped.length ∧ u.clamped.length ≤ 250 ∧ 15 ≤ u.clamped.width ∧ u.clamped.width ≤ 30 ∧
      10 ≤ u.clamped.height ∧ u.clamped.height ≤ 50 ∧ 5 ≤ u.clamped.mass ∧ u.clamped.mass ≤ 600 := by
  simp only [RawUnit.clamped, RawUnit.clampedMass]
  omega

/-- The mass as clamped is at least 5, so that an axle lowered to it stays at 1 or above. -/
theorem RawUnit.clamped_axle_inRange {u : RawUnit} (haxle : u.axle.toNat ≤ 200) :
    1 ≤ u.clamped.axle ∧ u.clamped.axle ≤ u.clamped.mass ∧ u.clamped.axle ≤ 200 := by
  simp only [RawUnit.clamped, RawUnit.clampedMass]
  omega

/-- Settles O19, field by field: the values of R24, then the ranges of R5. -/
theorem clampedWithinRanges : Obligations.ClampedWithinRanges := by
  intro laneCount u hgood c
  simp only [BadRecord, not_or, not_lt] at hgood
  obtain ⟨htag, hlength, hwidth, hheight, hmass, haxle, hport0, hport, hgroup, hkind, -, -, hpreferred⟩ := hgood
  obtain ⟨length_ge, length_le, width_ge, width_le, height_ge, height_le, mass_ge, mass_le⟩ :=
    RawUnit.clamped_sizes_inRange hlength hwidth hheight hmass
  obtain ⟨axle_ge, axle_le_mass, axle_le⟩ := RawUnit.clamped_axle_inRange haxle
  exact ⟨rfl, rfl, rfl, rfl, rfl, rfl, RawUnit.clamped_kind_code hkind, rfl, rfl,
    RawUnit.clamped_power_iff u, RawUnit.clamped_unverified_iff u, rfl,
    htag, length_ge, length_le, width_ge, width_le, height_ge, height_le, mass_ge, mass_le, axle_ge, axle_le_mass, axle_le,
    Nat.pos_of_ne_zero hport0, hport, hgroup, RawUnit.clamped_preferred_lt hpreferred⟩

end Sys2Proof.Machine
end

section
/-! PROOFS. The evaluation of a departure (R31, R61 to R63): which departure is due, what each outcome writes, and the checks
in their order. -/

namespace Sys2Proof.Machine

theorem UnitStore.tag_of_find {u : UnitStore} {tag : Tag} {r : UnitRecord} (h : u.find tag = some r) : r.unit.tag = tag := by
  simpa using List.find?_some h

theorem exec_evaluateDeparture (s : State) : exec .evaluateDeparture s = execEvaluateDeparture s := rfl

/-- D1: the departure of a PARKED record is due where it is the entry taken and the gate is open (R29, R61). -/
theorem departureDue_eq_some {s : State} {tag : Tag} {r : UnitRecord} (hgate : gateOpen s = true)
    (hask : (taken s).map Entry.ask = some (.departure tag)) (hfind : s.units.find tag = some r) (hparked : r.state = .parked) :
    departureDue s = some r := by
  simp [departureDue, hgate, hask, hfind, hparked]

theorem execEvaluateDeparture_of_due {s : State} {im : Image} {r : UnitRecord} (him : s.image = some im)
    (hdue : departureDue s = some r) : execEvaluateDeparture s = .next (applyDeparture im r s) := by
  simp only [execEvaluateDeparture, him, hdue]

/-- A refusal is a decision report, which the queue always admits (R168). -/
theorem refuseTaken_eq (tag : Tag) (reason : RefusedReason) (s : State) :
    refuseTaken tag reason s =
      { s with
        intake := s.intake.eraseP Entry.takeable
        reports := s.reports ++ [.refused tag reason] } := rfl

theorem isExit_eq_false_iff (s : State) (im : Image) (r : UnitRecord) :
    isExit s im r = false ↔ (exitUnit im s.units.records r.lane).map (fun x => x.unit.tag) ≠ some r.unit.tag :=
  beq_eq_false_iff_ne

theorem laneUnblocked_eq_false_iff (s : State) (r : UnitRecord) :
    laneUnblocked s r = false ↔ (s.plans.lane r.lane).blocked = true := by
  simp [laneUnblocked]

/-- D2, D3 and D4 in order, each in the terms of its rule (R61 to R63). -/
theorem applyDeparture_eq (im : Image) (r : UnitRecord) (s : State) :
    applyDeparture im r s =
      if (exitUnit im s.units.records r.lane).map (fun x => x.unit.tag) ≠ some r.unit.tag then
        refuseTaken r.unit.tag .notAtExit s
      else if (s.plans.lane r.lane).blocked = true then updateTaken (fun e => { e with state := .held .laneState }) s
      else if limitCheck s im none r.contrib.neg = false then updateTaken (fun e => { e with state := .held .shipLimits }) s
      else applyRemove r s := by
  simp only [applyDeparture, Bool.not_eq_true', isExit_eq_false_iff, laneUnblocked_eq_false_iff]

/-- What a departure that passes writes, settled at the end (R63, R90). -/
theorem applyRemove_eq (r : UnitRecord) (s : State) :
    applyRemove r s = settle
      { s with
        units := s.units.setState r.unit.tag .leaving
        intents := ⟨s.intents.open_ ++ [⟨s.intents.nextId, .remove, r.unit.tag, r.contrib.neg, .unannounced⟩], s.intents.nextId⟩
        bus := s.bus.join (.intent ⟨s.intents.nextId, .remove, r.contrib.neg⟩)
        intake := updateFirst Entry.takeable (fun e => { e with state := .placing s.intents.nextId }) s.intake } := rfl

/-- Settles O27: the departure is due, and its outcome is that of D2, D3 and D4 in order. -/
theorem evaluateDepartureOutcome : Obligations.EvaluateDepartureOutcome := by
  intro s im tag r him hgate hask hfind hparked
  obtain rfl : r.unit.tag = tag := UnitStore.tag_of_find hfind
  have hdue : departureDue s = some r := departureDue_eq_some hgate hask hfind hparked
  rw [exec_evaluateDeparture, execEvaluateDeparture_of_due him hdue, applyDeparture_eq, refuseTaken_eq, applyRemove_eq]
  rfl

end Sys2Proof.Machine
end

section
/-! PROOFS. The lane checks (R39, R42 to R53): what the answer of each check says, and the check a candidate reaches as the first
of the eleven that it fails. -/

namespace Sys2Proof.Machine

open Sys2Proof.Safety

/-! ### What each check answers -/

theorem marked_iff (matrix : List Byte) (i j : Nat) : marked matrix i j = true ↔
    i ≠ 0 ∧ j ≠ 0 ∧ ∃ row, matrix[i - 1]? = some row ∧ row.getLsbD (j - 1) = true := by
  have hrow : (matrix.getD (i - 1) 0).getLsbD (j - 1) = true ↔
      ∃ row, matrix[i - 1]? = some row ∧ row.getLsbD (j - 1) = true := by
    rw [List.getD_eq_getElem?_getD]
    cases matrix[i - 1]? <;> simp
  simp only [marked, Bool.and_eq_true, bne_iff_ne, hrow, and_assoc]

theorem nearLane_iff (lane other : Nat) :
    nearLane lane other = true ↔ other = lane ∨ other = lane + 1 ∨ other + 1 = lane := by
  simp [nearLane, or_assoc]

theorem fitsDimensions_iff_passes (s : State) (im : Image) (c : Candidate) :
    fitsDimensions s im c = true ↔ Passes s im c .dimensions := by
  simp only [fitsDimensions, Bool.and_eq_true, decide_eq_true_eq]
  rfl

theorem fitsAxle_iff_passes (s : State) (im : Image) (c : Candidate) : fitsAxle im c = true ↔ Passes s im c .axle := by
  simp [fitsAxle, Passes]

theorem fitsPower_iff_passes (s : State) (im : Image) (c : Candidate) : fitsPower im c = true ↔ Passes s im c .power := by
  cases hpower : c.unit.power <;> simp [fitsPower, Passes, hpower]

theorem fitsRoom_iff_passes (s : State) (im : Image) (c : Candidate) : fitsRoom im c = true ↔ Passes s im c .room := by
  simp [fitsRoom, Passes, and_assoc]

theorem fitsOrder_iff_passes (s : State) (im : Image) (c : Candidate) : fitsOrder im c = true ↔ Passes s im c .order := by
  unfold fitsOrder newestOn Passes
  cases (onLane c.others c.lane).getLast? with
  | none => simp [orderAllows]
  | some newest => cases (im.lane c.lane).order <;> simp [orderAllows]

theorem fitsApart_iff_passes (s : State) (im : Image) (c : Candidate) : fitsApart im c = true ↔ Passes s im c .apart := by
  simp only [fitsApart, Passes, List.all_eq_true, Bool.or_eq_true, Bool.not_eq_true', ← Bool.not_eq_true, Bool.and_eq_true,
    nearLane_iff, decide_eq_true_eq, ← imp_iff_not_or, and_imp]
  rfl

theorem fitsDeckMass_iff_passes (s : State) (im : Image) (c : Candidate) :
    fitsDeckMass im c = true ↔ Passes s im c .deckMass :=
  decide_eq_true_iff

theorem laneOpen_iff_passes (s : State) (im : Image) (c : Candidate) :
    laneOpen s.plans c.lane = true ↔ Passes s im c .laneState := by
  simp [laneOpen, PlanStore.deferred, Passes, and_assoc]

theorem profileAdmits_iff_passes (s : State) (im : Image) (c : Candidate) :
    profileAdmits (effectiveProfile im s.plans c.lane) c.unit = true ↔ Passes s im c .profile := by
  cases hunverified : c.unit.unverified <;> simp [profileAdmits, Passes, hunverified, and_assoc]

theorem reservedFor_iff_passes (s : State) (im : Image) (c : Candidate) :
    reservedFor (s.plans.active.entry c.lane) c.unit.port = true ↔ Passes s im c .reservation := by
  cases hreserved : (s.plans.active.entry c.lane).reserved <;> simp [reservedFor, Passes, hreserved]

/-! ### The eleven checks in order -/

/-- The checks in the order of R42. -/
def Check.inOrder : List Check :=
  [.dimensions, .axle, .power, .room, .order, .apart, .deckMass, .laneState, .profile, .reservation, .shipLimits]

/-- What the model answers for one check; `laneChecks_eq_map` says that these are the answers of `laneChecks`. -/
def Check.answer (s : State) (im : Image) (c : Candidate) : Check → Bool
  | .dimensions => fitsDimensions s im c
  | .axle => fitsAxle im c
  | .power => fitsPower im c
  | .room => fitsRoom im c
  | .order => fitsOrder im c
  | .apart => fitsApart im c
  | .deckMass => fitsDeckMass im c
  | .laneState => laneOpen s.plans c.lane
  | .profile => profileAdmits (effectiveProfile im s.plans c.lane) c.unit
  | .reservation => reservedFor (s.plans.active.entry c.lane) c.unit.port
  | .shipLimits => limitCheck s im c.skip c.contrib

theorem laneChecks_eq_map (s : State) (im : Image) (c : Candidate) :
    laneChecks s im c = Check.inOrder.map fun k => (k, k.answer s im c) := rfl

theorem Check.answer_iff_passes (s : State) (im : Image) (c : Candidate) (k : Check) :
    k.answer s im c = true ↔ Passes s im c k := by
  cases k with
  | dimensions => exact fitsDimensions_iff_passes s im c
  | axle => exact fitsAxle_iff_passes s im c
  | power => exact fitsPower_iff_passes s im c
  | room => exact fitsRoom_iff_passes s im c
  | order => exact fitsOrder_iff_passes s im c
  | apart => exact fitsApart_iff_passes s im c
  | deckMass => exact fitsDeckMass_iff_passes s im c
  | laneState => exact laneOpen_iff_passes s im c
  | profile => exact profileAdmits_iff_passes s im c
  | reservation => exact reservedFor_iff_passes s im c
  | shipLimits => exact Iff.rfl

theorem Check.mem_inOrder (k : Check) : k ∈ Check.inOrder := by
  cases k <;> decide

theorem Check.inOrder_pairwise : Check.inOrder.Pairwise fun j k => j.number < k.number := by
  decide

/-! ### The check a candidate reaches -/

theorem reached_eq_find? (s : State) (im : Image) (c : Candidate) :
    reached s im c = Check.inOrder.find? fun k => !k.answer s im c := by
  simp [reached, laneChecks_eq_map, List.find?_map, Function.comp_def]

/-- In a list of everything, ranked strictly upwards, the first that satisfies a test is the lowest ranked one that does. -/
theorem find?_eq_some_iff_of_ranked {α : Type} {rank : α → Nat} {l : List α} (hranked : l.Pairwise fun a b => rank a < rank b)
    (hall : ∀ a, a ∈ l) (p : α → Bool) (a : α) :
    l.find? p = some a ↔ p a = true ∧ ∀ b, rank b < rank a → p b = false := by
  constructor
  · intro hfind
    obtain ⟨ha, before, after, rfl, hbefore⟩ := List.find?_eq_some_iff_append.1 hfind
    obtain ⟨-, hafter, -⟩ := List.pairwise_append.1 hranked
    refine ⟨ha, fun b hlt => ?_⟩
    rcases List.mem_append.1 (hall b) with hb | hb
    · simpa using hbefore b hb
    · rcases List.mem_cons.1 hb with rfl | hb
      · exact absurd hlt (lt_irrefl _)
      · exact absurd hlt (List.rel_of_pairwise_cons hafter hb).not_gt
  · rintro ⟨ha, hlower⟩
    obtain ⟨before, after, rfl⟩ := List.append_of_mem (hall a)
    obtain ⟨-, -, hbefore⟩ := List.pairwise_append.1 hranked
    refine List.find?_eq_some_iff_append.2 ⟨ha, before, after, rfl, fun b hb => ?_⟩
    simp [hlower b (hbefore b hb a List.mem_cons_self)]

theorem reached_eq_none_iff (s : State) (im : Image) (c : Candidate) :
    reached s im c = none ↔ ∀ k, Passes s im c k := by
  simp [reached_eq_find?, Check.mem_inOrder, Check.answer_iff_passes]

theorem reached_eq_some_iff (s : State) (im : Image) (c : Candidate) (k : Check) :
    reached s im c = some k ↔ ¬ Passes s im c k ∧ ∀ j, j.number < k.number → Passes s im c j := by
  rw [reached_eq_find?, find?_eq_some_iff_of_ranked Check.inOrder_pairwise Check.mem_inOrder]
  simp [← Bool.not_eq_true, Check.answer_iff_passes]

/-! ### The settings a candidate is judged by -/

theorem getD_of_getElem? {α : Type} {l : List α} {i : Nat} {a : α} (d : α) (h : l[i]? = some a) : l.getD i d = a := by
  rw [List.getD_eq_getElem?_getD, h, Option.getD_some]

theorem effectiveProfile_eq (im : Image) (p : PlanStore) (lane : Nat) :
    effectiveProfile im p lane =
      match (p.active.entry lane).profile with
      | some n => im.profiles.getD n Profile.none
      | none => im.profiles.getD p.active.dflt Profile.none := by
  unfold effectiveProfile PlanStore.profileNo
  cases (p.active.entry lane).profile <;> rfl

/-- Settles O23: the lookups, the candidate of a lane, and the check reached as the first failed. -/
theorem Check.laneChecks : Obligations.LaneChecks := by
  refine ⟨⟨rfl, rfl⟩, ⟨fun _ _ _ => getD_of_getElem? _, fun _ _ _ => getD_of_getElem? _, fun _ _ _ => getD_of_getElem? _,
    fun _ _ => rfl⟩, marked_iff, effectiveProfile_eq, fun s im => ⟨fun _ _ => rfl, fun c => ?_⟩⟩
  exact ⟨reached_eq_some_iff s im c, reached_eq_none_iff s im c⟩

end Sys2Proof.Machine
end

section
/-! PROOFS. The score of a lane (R55 to R57): each of its terms as the manual's floor of a quotient, and their bounds. -/

namespace Sys2Proof.Machine

/-- The floor of a share in thousandths, formed over the naturals, is that of R56 over the integers. -/
theorem cast_natAbs_mul_div_toNat (x : Int) {limit : Int} (h : 0 ≤ limit) :
    ((x.natAbs * 1000 / limit.toNat : Nat) : Int) = |x| * 1000 / limit := by
  push_cast
  rw [Int.toNat_of_nonneg h]

theorem listTerm_of_zero_limit {im : Image} (h : im.tMax = 0) (t : Int) : listTerm im t = if t = 0 then 0 else 1000 :=
  if_pos h

theorem cast_listTerm {im : Image} (h : 0 < im.tMax) (t : Int) :
    (listTerm im t : Int) = min 1000 (|t| * 1000 / im.tMax) := by
  rw [listTerm, if_neg h.ne', Nat.cast_min, cast_natAbs_mul_div_toNat t h.le, Nat.cast_ofNat]

theorem listTerm_le (im : Image) (t : Int) : listTerm im t ≤ 1000 := by
  unfold listTerm
  repeat' split
  all_goals omega

theorem trimTerm_of_zero_width {v : ShipView} (h : v.wMin = v.wMax) (l : Int) :
    trimTerm v l = if 2 * l = v.wMin + v.wMax then 0 else 1000 := by
  simp only [trimTerm, if_pos h, Int.natAbs_eq_zero, sub_eq_zero]

theorem cast_trimTerm {v : ShipView} (h : v.wMin < v.wMax) (l : Int) :
    (trimTerm v l : Int) = min 1000 (|2 * l - (v.wMin + v.wMax)| * 1000 / (v.wMax - v.wMin)) := by
  simp only [trimTerm, if_neg h.ne]
  rw [Nat.cast_min, cast_natAbs_mul_div_toNat _ (sub_nonneg.2 h.le), Nat.cast_ofNat]

theorem trimTerm_le (v : ShipView) (l : Int) : trimTerm v l ≤ 1000 := by
  simp only [trimTerm]
  repeat' split
  all_goals omega

theorem orderTerm_le (newest : Option UnitRecord) (port : Nat) : orderTerm newest port ≤ 1000 := by
  unfold orderTerm
  repeat' split
  all_goals omega

theorem fillTerm_le (d : LaneDesc) (c : Candidate) : fillTerm d c ≤ 1000 :=
  Nat.div_le_of_le_mul (Nat.mul_le_mul_right _ (Nat.sub_le _ _))

/-- A candidate within the lane takes up some of its length, so that the unused share stays below the whole. -/
theorem fillTerm_le_of_within {d : LaneDesc} {c : Candidate} (hwithin : c.offset + c.unit.length ≤ d.len)
    (hlength : 0 < c.unit.length) : fillTerm d c ≤ 999 := by
  have hshare : (d.len - (c.offset + c.unit.length)) * 1000 < d.len * 1000 := by omega
  exact Nat.le_of_lt_succ (Nat.div_lt_of_lt_mul hshare)

theorem score_eq (s : State) (im : Image) (c : Candidate) :
    score s im c =
      (effectiveProfile im s.plans c.lane).wH * listTerm im (expectedView s im c.contrib).t +
      (effectiveProfile im s.plans c.lane).wT * trimTerm s.view (expectedView s im c.contrib).l +
      (effectiveProfile im s.plans c.lane).wO * orderTerm (newestOn c.others c.lane) c.unit.port +
      (effectiveProfile im s.plans c.lane).wF * fillTerm (im.lane c.lane) c := rfl

theorem score_le {s : State} {im : Image} {c : Candidate} (hH : (effectiveProfile im s.plans c.lane).wH ≤ 15)
    (hT : (effectiveProfile im s.plans c.lane).wT ≤ 15) (hO : (effectiveProfile im s.plans c.lane).wO ≤ 15)
    (hF : (effectiveProfile im s.plans c.lane).wF ≤ 15) : score s im c ≤ 60000 := by
  have list_le := Nat.mul_le_mul hH (listTerm_le im (expectedView s im c.contrib).t)
  have trim_le := Nat.mul_le_mul hT (trimTerm_le s.view (expectedView s im c.contrib).l)
  have order_le := Nat.mul_le_mul hO (orderTerm_le (newestOn c.others c.lane) c.unit.port)
  have fill_le := Nat.mul_le_mul hF (fillTerm_le (im.lane c.lane) c)
  rw [score_eq]
  omega

/-- Settles O25, with the model's own four terms. -/
theorem scoreRule : Obligations.ScoreRule := by
  intro s im c p d e v
  exact ⟨listTerm im e.t, trimTerm v e.l, orderTerm (newestOn c.others c.lane) c.unit.port, fillTerm d c,
    score_eq s im c,
    fun h => listTerm_of_zero_limit h e.t, fun h => cast_listTerm h e.t,
    fun h => trimTerm_of_zero_width h e.l, fun h => cast_trimTerm h e.l,
    rfl,
    fun hwithin hlength => ⟨rfl, fillTerm_le_of_within hwithin (by omega)⟩,
    listTerm_le im e.t, trimTerm_le v e.l, orderTerm_le _ _, fillTerm_le d c,
    score_le⟩

end Sys2Proof.Machine
end

section
/-! PROOFS. The pre-send re-check (R64 to R66): the condition on the peers, and the checks of a PLACE and of a REMOVE intent. -/

namespace Sys2Proof.Machine

open Sys2Proof.Safety

theorem Lock.untrusted_eq_false_iff (k : Lock) : k.untrusted = false ↔ k ≠ .lost ∧ k ≠ .unheard := by
  cases k <;> decide

theorem peersAllow_iff (im : Image) (t : PeerTable) :
    peersAllow im t = true ↔ (∀ p ∈ t.peers, p.lock ≠ .doubtful) ∧
      (im.subst = .freeze → ∀ p ∈ t.peers, p.lock ≠ .lost ∧ p.lock ≠ .unheard) := by
  simp only [peersAllow, Bool.and_eq_true, Bool.or_eq_true, List.all_eq_true, bne_iff_ne, Bool.not_eq_true',
    Lock.untrusted_eq_false_iff, ne_eq, ← imp_iff_not_or]

theorem isExit_iff (s : State) (im : Image) (r : UnitRecord) :
    isExit s im r = true ↔ (exitUnit im s.units.records r.lane).map (fun x => x.unit.tag) = some r.unit.tag :=
  beq_iff_eq

theorem laneUnblocked_iff (s : State) (r : UnitRecord) :
    laneUnblocked s r = true ↔ (s.plans.lane r.lane).blocked = false := by
  simp [laneUnblocked]

/-- R65: a PLACE intent passes the re-check where its own record, as the candidate, reaches no check. -/
theorem recheck_place_iff {s : State} {im : Image} {it : Intent} {r : UnitRecord} (hfind : s.units.find it.tag = some r)
    (hdir : it.dir = .place) :
    recheck s im it = true ↔ peersAllow im s.peers = true ∧ ∀ k, Passes s im (recheckCandidate s it r) k := by
  simp [recheck, hfind, hdir, reached_eq_none_iff]

/-- R66: a REMOVE intent passes it where D2, D3 and D4 pass of its record. -/
theorem recheck_remove_iff {s : State} {im : Image} {it : Intent} {r : UnitRecord} (hfind : s.units.find it.tag = some r)
    (hdir : it.dir = .remove) :
    recheck s im it = true ↔ peersAllow im s.peers = true ∧
      (exitUnit im s.units.records r.lane).map (fun x => x.unit.tag) = some r.unit.tag ∧
      (s.plans.lane r.lane).blocked = false ∧ limitCheck s im (some it.id) it.delta = true := by
  simp only [recheck, hfind, hdir, Bool.and_eq_true, isExit_iff, laneUnblocked_iff, and_assoc]

/-- Settles O28, by the intent's direction. -/
theorem recheckRule : Obligations.RecheckRule := by
  intro s im it r hfind
  cases hdir : it.dir with
  | place => rw [recheck_place_iff hfind hdir, peersAllow_iff, and_assoc]; rfl
  | remove => rw [recheck_remove_iff hfind hdir, peersAllow_iff, and_assoc]; rfl

end Sys2Proof.Machine
end

section
/-! PROOFS. A frame in the record of its peer (R126 to R131): its class, the lock state after it, and the record as a whole. -/

namespace Sys2Proof

/-- Whether a body is a SUMMARY, the one kind that R126 classes whatever its sequence number. -/
def FrameBody.isSummary : FrameBody → Bool
  | .summary _ _ _ => true
  | .intent _ | .settle _ _ | .retract _ => false

end Sys2Proof

namespace Sys2Proof.Machine

/-- The lock state after a notice out of sequence, the table of R129. -/
def Lock.afterGap : Lock → Lock
  | .locked => .doubtful
  | .doubtful => .lost
  | .lost => .lost
  | .unheard => .unheard

theorem Peer.overflows_iff (p : Peer) (e : IntentEntry) :
    p.overflows e = true ↔ p.recorded.any (fun x => x.id == e.id) = false ∧ 4 ≤ p.recorded.length := by
  simp [Peer.overflows, Peer.records, Config.recordedCap]

theorem Peer.apply_with_silence (p : Peer) (t : Silence) (b : FrameBody) :
    { p with silence := t }.apply b = { p.apply b with silence := t } := by
  cases b <;> rfl

/-! ### The class of a frame (R126) -/

theorem Peer.classOf_summary {p : Peer} {f : Frame} (h : f.body.isSummary = true) : p.classOf f = .summary := by
  obtain ⟨n, seq, body⟩ := f
  cases body with
  | summary sums parked es => rfl
  | intent | settle | retract => cases h

/-- A notice is compared with the last sequence alone; `f.seq - 1` counts from 0 down to 255. -/
theorem Peer.classOf_notice {p : Peer} {f : Frame} (h : f.body.isSummary = false) :
    p.classOf f =
      if p.lastSeq = some f.seq then .repeated
      else if p.lastSeq = some (f.seq - 1) then .inSequence
      else .outOfSequence := by
  obtain ⟨n, seq, body⟩ := f
  cases body with
  | summary sums parked es => cases h
  | intent | settle | retract =>
    cases hlast : p.lastSeq with
    | none => simp [Peer.classOf, hlast]
    | some q => simp [Peer.classOf, hlast, eq_comm, eq_sub_iff_add_eq]

theorem Peer.classOf_repeated_iff {p : Peer} {f : Frame} (h : f.body.isSummary = false) :
    p.classOf f = .repeated ↔ p.lastSeq = some f.seq := by
  rw [Peer.classOf_notice h]
  split_ifs with hrepeat <;> simp [hrepeat]

/-! ### The lock state after a frame (R127 to R130) -/

theorem Peer.lockAfter_summary {p : Peer} {f : Frame} (h : p.classOf f = .summary) : p.lockAfter f = .locked := by
  simp [Peer.lockAfter, h]

theorem Peer.lockAfter_inSequence {p : Peer} {f : Frame} (h : p.classOf f = .inSequence) :
    p.lockAfter f = if p.lock = .locked ∧ p.overflowsBody f.body = true then .doubtful else p.lock := by
  cases hlock : p.lock <;> simp [Peer.lockAfter, h, hlock]

theorem Peer.lockAfter_outOfSequence {p : Peer} {f : Frame} (h : p.classOf f = .outOfSequence) :
    p.lockAfter f = p.lock.afterGap := by
  cases hlock : p.lock <;> simp [Peer.lockAfter, h, hlock, Lock.afterGap]

/-- R128 and R129 for a notice that is no repeat. -/
theorem Peer.lockAfter_notice {p : Peer} {f : Frame} (h : f.body.isSummary = false) (hfresh : p.lastSeq ≠ some f.seq) :
    p.lockAfter f =
      if p.lastSeq = some (f.seq - 1) then
        if p.lock = .locked ∧ p.overflowsBody f.body = true then .doubtful else p.lock
      else p.lock.afterGap := by
  have hclass := Peer.classOf_notice (p := p) h
  rw [if_neg hfresh] at hclass
  by_cases hnext : p.lastSeq = some (f.seq - 1)
  · rw [if_pos hnext] at hclass ⊢
    exact Peer.lockAfter_inSequence hclass
  · rw [if_neg hnext] at hclass ⊢
    exact Peer.lockAfter_outOfSequence hclass

/-! ### The record after a frame -/

/-- A repeat is ignored but for the silence timer. -/
theorem Peer.take_repeated {p : Peer} {f : Frame} (h : p.classOf f = .repeated) :
    p.take f = { p with silence := .running 0 } := by
  simp [Peer.take, h]

/-- A frame of any other class is applied. -/
theorem Peer.take_applied {p : Peer} {f : Frame} (h : p.classOf f ≠ .repeated) :
    p.take f =
      { p.apply f.body with silence := .running 0, lastSeq := some f.seq, lock := p.lockAfter f } := by
  cases hclass : p.classOf f with
  | repeated => exact absurd hclass h
  | summary | inSequence | outOfSequence => simp [Peer.take, hclass, Peer.apply_with_silence]

theorem Peer.take_summary {p : Peer} {f : Frame} (h : f.body.isSummary = true) :
    p.take f = { p.apply f.body with silence := .running 0, lastSeq := some f.seq, lock := .locked } := by
  have hclass : p.classOf f = .summary := Peer.classOf_summary h
  rw [Peer.take_applied (by simp [hclass]), Peer.lockAfter_summary hclass]

theorem Peer.take_notice {p : Peer} {f : Frame} (h : f.body.isSummary = false) :
    p.take f =
      if p.lastSeq = some f.seq then { p with silence := .running 0 }
      else
        { p.apply f.body with
          silence := .running 0
          lastSeq := some f.seq
          lock :=
            if p.lastSeq = some (f.seq - 1) then
              if p.lock = .locked ∧ p.overflowsBody f.body = true then .doubtful else p.lock
            else p.lock.afterGap } := by
  have hclass : p.classOf f = .repeated ↔ p.lastSeq = some f.seq := Peer.classOf_repeated_iff h
  by_cases hrepeat : p.lastSeq = some f.seq
  · rw [if_pos hrepeat, Peer.take_repeated (hclass.2 hrepeat)]
  · rw [if_neg hrepeat, Peer.take_applied (hclass.not.2 hrepeat), Peer.lockAfter_notice h hrepeat]

/-- Settles O45, by the kind of the frame: a SUMMARY is applied whatever its number, a notice by its class. -/
theorem peerRecordAfterFrame : Obligations.PeerRecordAfterFrame := by
  intro p f overflow gap
  obtain ⟨n, seq, body⟩ := f
  cases body with
  | summary sums parked es => exact Peer.take_summary rfl
  | intent e =>
    rw [Peer.take_notice rfl]
    simp only [Peer.apply, Peer.overflowsBody, Peer.overflows_iff]
    rfl
  | settle | retract =>
    rw [Peer.take_notice rfl]
    simp only [Peer.apply, Peer.overflowsBody, Bool.false_eq_true, and_false, if_false]
    rfl

end Sys2Proof.Machine
end

section
/-! PROOFS. The handling of each terminal request neither looks at the port nor changes it, so that a request received is its
owner's handling of the state as it stands, answered (R156). -/

namespace Sys2Proof.Machine

/-- A handling that neither looks at the port nor changes it. -/
def PortFree {α : Type} (handle : State → α × State) : Prop :=
  ∀ (s : State) (p : Port), handle (s.withPort p) = ((handle s).1, (handle s).2.withPort p)

theorem beginRestore_portFree : PortFree beginRestore := by
  intro s p
  simp only [beginRestore, State.withPort_fields]
  cases s.control.station <;> rfl

theorem endRestore_portFree : PortFree endRestore := by
  intro s p
  simp only [endRestore, State.withPort_fields, enterJoined_withPort]
  cases s.control.station <;> rfl

theorem tagHeld_withPort (s : State) (p : Port) (tag : Tag) : tagHeld (s.withPort p) tag = tagHeld s tag := rfl

theorem restoreChecked_portFree (im : Image) (lane offset : Nat) (u : RawUnit) : PortFree (restoreChecked im lane offset u) := by
  intro s p
  simp only [restoreChecked, tagHeld_withPort, State.withPort_fields, insertRecord_withPort, settle_withPort]
  repeat' split
  all_goals rfl

theorem restoreUnit_portFree (lane offset : Nat) (u : RawUnit) : PortFree (restoreUnit lane offset u) := by
  intro s p
  simp only [restoreUnit, State.withPort_fields, restoreChecked_portFree _ _ _ _ s p]
  cases s.control.station <;> cases s.image <;> rfl

theorem submitArrival_portFree (u : RawUnit) : PortFree (submitArrival u) := by
  intro s p
  simp only [submitArrival, State.withPort_fields, tagHeld_withPort, joinQueue_withPort]
  repeat' split
  all_goals rfl

theorem submitDeparture_portFree (tag : Tag) : PortFree (submitDeparture tag) := by
  intro s p
  simp only [submitDeparture, State.withPort_fields, joinQueue_withPort]
  repeat' split
  all_goals rfl

theorem withdraw_portFree (tag : Tag) : PortFree (withdraw tag) := by
  intro s p
  simp only [withdraw, State.withPort_fields]
  repeat' split
  all_goals rfl

theorem requestClosure_portFree (tag : Tag) (want : RecordState) {close : Image → UnitRecord → Intent → State → State}
    (hclose : ∀ im r it s p, close im r it (s.withPort p) = (close im r it s).withPort p) :
    PortFree (requestClosure tag want close) := by
  intro s p
  simp only [requestClosure, State.withPort_fields, hclose]
  repeat' split
  all_goals rfl

theorem forceRecord_portFree (im : Image) (r : UnitRecord) : PortFree (forceRecord im r) := by
  intro s p
  simp only [forceRecord, State.withPort_fields, forceParked_withPort, closeDeparted_withPort, forceUnannounced_withPort]
  cases r.state <;> cases s.intents.ofTag r.unit.tag with
  | none => rfl
  | some it =>
    simp only
    repeat' split
    all_goals rfl

theorem forced_portFree (tag : Tag) : PortFree (forced tag) := by
  intro s p
  simp only [forced, State.withPort_fields, forceRecord_portFree _ _ s p]
  repeat' split
  all_goals rfl

/-- A request served in LISTENING, RESTORING and JOINED alone is port-free where its handling there is. -/
theorem whileWorking_portFree {handle : State → Image → ReplyCode × State}
    (h : ∀ im, PortFree fun s => handle s im) : PortFree fun s => whileWorking s (handle s) := by
  intro s p
  have hs : ∀ im, handle (s.withPort p) im = ((handle s im).1, (handle s im).2.withPort p) := fun im => h im s p
  simp only [whileWorking, State.withPort_fields, hs]
  repeat' split
  all_goals rfl

theorem setWindow_portFree (lo hi : Int) : PortFree (setWindow lo hi) :=
  whileWorking_portFree fun im s p => by
    simp only [putWindow_withPort]
    split <;> rfl

theorem loadActive_portFree (first dflt : Byte) (es : List RawEntry) : PortFree (loadActive first dflt es) :=
  whileWorking_portFree fun im s p => by
    simp only [switchOver_withPort]
    repeat' split
    all_goals rfl

theorem loadStaged_portFree (which : Staged) (first dflt : Byte) (es : List RawEntry) :
    PortFree (loadStaged which first dflt es) :=
  whileWorking_portFree fun im s p => by
    split <;> rfl

theorem loadPlan_portFree (target first dflt : Byte) (es : List RawEntry) : PortFree (loadPlan target first dflt es) := by
  intro s p
  simp only [loadPlan]
  split
  · exact loadActive_portFree first dflt es s p
  · cases stagedOfCode target with
    | some which => exact loadStaged_portFree which first dflt es s p
    | none => exact whileWorking_portFree (handle := fun t _ => (.badValue, t)) (fun _ _ _ => rfl) s p

theorem selectStaged_portFree (target : Byte) : PortFree (selectStaged target) :=
  whileWorking_portFree fun im s p => by
    simp only [State.withPort_fields]
    repeat' split
    all_goals rfl

theorem switchPlan_portFree (target : Byte) : PortFree (switchPlan target) :=
  whileWorking_portFree fun im s p => by
    simp only [switchFromStaged_withPort]
    repeat' split
    all_goals rfl

theorem setBlock_portFree (blocked : Bool) (lane : Nat) : PortFree (setBlock blocked lane) :=
  whileWorking_portFree fun im s p => by
    split <;> rfl

theorem readReport_eq (s : State) : readReport s =
    if s.control.station = .loading then ([ReplyCode.unavailable.byte], s)
    else
      match s.reports with
      | [] => ([ReplyCode.empty.byte], s)
      | r :: rest => (doneWith r.bytes, refuseMarked { s with reports := rest }) := by
  unfold readReport
  cases hstation : s.control.station <;> simp <;> cases s.reports <;> rfl

theorem readReport_portFree : PortFree readReport := by
  intro s p
  have h : ∀ rest, refuseMarked { s.withPort p with reports := rest } = (refuseMarked { s with reports := rest }).withPort p :=
    fun rest => refuseMarked_withPort { s with reports := rest } p
  simp only [readReport_eq, h]
  simp only [State.withPort_fields]
  split
  · rfl
  · cases s.reports <;> rfl

end Sys2Proof.Machine
end

section
/-! PROOFS. What one command can do, said once: `Changes` names every way in which a command changes the blocks other than the port,
and `exec_answers` and `step_changes` say that a step does nothing else. -/

namespace Sys2Proof.Machine

open Sys2Proof.Safety

/-- A closure request that is taken: the record found under its tag, in the state wanted, and its open intent (R95). -/
structure Closes (s : State) (im : Image) (r : UnitRecord) (it : Intent) (want : RecordState) : Prop where
  image : s.image = some im
  record : s.units.find r.unit.tag = some r
  intent : s.intents.ofTag r.unit.tag = some it
  state : r.state = want

/-- A unit that may join a lane as its newest: behind the occupied length, within the lane, in its order, with room in lane and pool
(R14, R15, R46, R47, R178). -/
structure Joins (s : State) (im : Image) (lane offset : Nat) (unit : UnitId) : Prop where
  behind : occupied im.gap s.units.records lane ≤ offset
  within : offset + unit.length ≤ (im.lane lane).len
  order : orderAllows (im.lane lane).order (newestOn s.units.records lane) unit.port = true
  lane_room : (onLane s.units.records lane).length < Config.laneCap
  pool_room : s.units.records.length < Config.poolSize

/-- What one command can do to the blocks other than the port. -/
inductive Changes (s : State) : State → Prop
  | same : Changes s s
  | reset : Changes s (resetAll s)
  | restart (panel switch : Bool) : Changes s (leave panel switch (resetAll s))
  | left (panel switch : Bool) : Changes s (leave panel switch s)
  | control (c : Control) (fresh : Nat) (hstation : c.station = s.control.station ∨ c.station = .faulted) :
      Changes s { s with control := c, fresh := fresh }
  | loaded (im : Image) (c : Control) (fresh : Nat) (hstation : s.control.station = .loading) :
      Changes s (enterListening im { s with control := c, fresh := fresh })
  | listened (hstation : s.control.station = .listening) : Changes s (listenOver s)
  | joined : Changes s (enterJoined s)
  | reportRead (r : Report) (rest : List Report) (hreports : s.reports = r :: rest) :
      Changes s (refuseMarked { s with reports := rest })
  | arrival (unit : UnitId) (hroom : s.intake.length < Config.intakeCap) (htag : tagHeld s unit.tag = false) :
      Changes s (joinQueue (.arrival unit) s)
  | departure (tag : Tag) (hroom : s.intake.length < Config.intakeCap) : Changes s (joinQueue (.departure tag) s)
  | withdrawn (tag : Tag) : Changes s { s with intake := s.intake.eraseP fun e => e.tag == tag }
  | parked (im : Image) (r : UnitRecord) (it : Intent) (h : Closes s im r it .pending) : Changes s (closeParked im r it s)
  | abandoned (im : Image) (r : UnitRecord) (it : Intent) (h : Closes s im r it .pending) :
      Changes s (closeAbandoned im r it s)
  | departed (im : Image) (r : UnitRecord) (it : Intent) (h : Closes s im r it .leaving) : Changes s (closeDeparted im r it s)
  | stayed (im : Image) (r : UnitRecord) (it : Intent) (h : Closes s im r it .leaving) : Changes s (closeStayed im r it s)
  | forcedParked (im : Image) (r : UnitRecord) (him : s.image = some im) (hfind : s.units.find r.unit.tag = some r)
      (hstate : r.state = .parked) : Changes s (forceParked im r s)
  | forcedUnannounced (im : Image) (r : UnitRecord) (it : Intent) (h : Closes s im r it .leaving) :
      Changes s (forceUnannounced im r it s)
  | window (im : Image) (lo hi : Int) (him : s.image = some im) : Changes s (putWindow lo hi s)
  | switched (im : Image) (new : List (Nat × PlanEntry)) (dflt : Option Nat) (q : PlanStore) :
      Changes s (switchOver im new dflt { s with plans := q })
  | plans (q : PlanStore) : Changes s { s with plans := q }
  | block (q : PlanStore) : Changes s (releaseHeld { s with plans := q })
  | panel (lowered : Bool) : Changes s (panelChanged lowered s)
  | restored (im : Image) (lane offset : Nat) (unit : UnitId) (him : s.image = some im) (htag : tagHeld s unit.tag = false)
      (hjoins : Joins s im lane offset unit) : Changes s (settle (insertRecord im (restoredRecord im lane offset unit) s))
  | evaluatedArrival (im : Image) (unit : UnitId) (him : s.image = some im) (hdue : arrivalDue s = some unit) :
      Changes s (applyArrival im unit s)
  | evaluatedDeparture (im : Image) (r : UnitRecord) (him : s.image = some im) (hdue : departureDue s = some r) :
      Changes s (applyDeparture im r s)
  | waited (im : Image) (tag : Tag) (e : Entry) (hfind : s.intake.find? (Entry.runsOut im tag) = some e) :
      Changes s (waitOver im tag e s)
  | livedOut (id : IntentId) (tag : Tag) : Changes s (post (.overdue tag id) { s with intents := s.intents.setState id .overdue })
  | heartbeat : Changes s { s with bus := { s.bus.askSummary with heartbeat := some 0 } }
  | attempt (im : Image) (n : Notice) (rest : List Notice) (him : s.image = some im) (hqueue : s.bus.queue = n :: rest) :
      Changes s (startAttempt im n s)
  | collided : Changes s (collide s)
  | completed (im : Image) (n : Notice) (rest : List Notice) (hqueue : s.bus.queue = n :: rest) :
      Changes s (complete im n rest s)
  | line (l : Line) : Changes s { s with bus := { s.bus with line := l } }
  | frame (im : Image) (f : Frame) (him : s.image = some im) (hvalid : f.body.valid = true) :
      Changes s (takeFrame im f (lineJudged s))
  | silent (im : Image) (p : Peer) (him : s.image = some im) (hfind : s.peers.find p.number = some p) :
      Changes s (putPeer p p.fallSilent s)
  | ticked (im : Image) (c : Control) (hstation : c.station = s.control.station) :
      Changes s (tickBlocks im { s with control := c })

/-- A command's answer: a next state, which is one of the changes but for the port. -/
def Answers (s : State) (r : Result) : Prop := ∃ u p, Changes s u ∧ r = .next (u.withPort p)

theorem answers_next {s u : State} (h : Changes s u) : Answers s (.next u) := ⟨u, u.port, h, rfl⟩

theorem answers_same (s : State) : Answers s (.next s) := answers_next .same

theorem event_answers {s : State} {condition : Bool} {effect : State → State}
    (h : condition = true → Changes s (effect s)) : Answers s (event s condition effect) := by
  unfold event
  split
  · exact answers_next (h ‹_›)
  · exact answers_same s

/-- An event that changes the port besides. -/
theorem event_answers_withPort {s : State} {condition : Bool} {effect : State → State} {u : State} (p : Port)
    (h : Changes s u) (heffect : effect s = u.withPort p) : Answers s (event s condition effect) := by
  unfold event
  split
  · exact ⟨u, p, h, by rw [heffect]⟩
  · exact answers_same s

theorem serve_answers {s u : State} {handle : State → List Byte × State} (h : Changes s u)
    (hhandle : ∀ p, ∃ p', (handle (s.withPort p)).2 = u.withPort p') : Answers s (serve s handle) := by
  unfold serve
  split
  · rw [takeIn_eq]
    obtain ⟨p', hp'⟩ := hhandle (if s.port.selection then s.port else s.port.begin)
    exact ⟨u, _, h, by rw [answer, hp']; rfl⟩
  · exact answers_same s

theorem PortFree.serve_answers {s : State} {handle : State → List Byte × State} (hfree : PortFree handle)
    (h : Changes s (handle s).2) : Answers s (serve s handle) :=
  Machine.serve_answers h fun p => ⟨p, by rw [hfree]⟩

theorem PortFree.serveCode_answers {s : State} {handle : State → ReplyCode × State} (hfree : PortFree handle)
    (h : Changes s (handle s).2) : Answers s (serveCode s handle) :=
  Machine.serve_answers h fun p => ⟨p, by rw [hfree]⟩

/-- A request that only reads. -/
theorem serve_answers_of_reads (s : State) (reply : State → List Byte) : Answers s (serve s fun t => (reply t, t)) :=
  serve_answers .same fun p => ⟨p, rfl⟩

/-! ### What the handling of each request can do -/

theorem beginRestore_changes (s : State) : Changes s (beginRestore s).2 := by
  unfold beginRestore
  split
  case h_3 => exact .control { s.control with restoreMark := true } s.fresh (.inl rfl)
  all_goals exact .same

theorem endRestore_changes (s : State) : Changes s (endRestore s).2 := by
  unfold endRestore
  split
  case h_3 => exact .joined
  all_goals exact .same

theorem restoreChecked_changes {s : State} {im : Image} (him : s.image = some im) (lane offset : Nat) (u : RawUnit) :
    Changes s (restoreChecked im lane offset u s).2 := by
  unfold restoreChecked
  extract_lets unit
  split_ifs with htag hvalues hlane hbehind hwithin horder hroom
  case neg =>
    simp only [UnitStore.freePool, not_or] at hroom
    have hjoins : Joins s im lane offset unit :=
      ⟨by omega, by omega, by simpa using horder, by omega, by omega⟩
    exact .restored im lane offset unit him (eq_false_of_ne_true htag) hjoins
  all_goals exact .same

theorem restoreUnit_changes (s : State) (lane offset : Nat) (u : RawUnit) : Changes s (restoreUnit lane offset u s).2 := by
  unfold restoreUnit
  split
  case h_1 im _ him => exact restoreChecked_changes him lane offset u
  all_goals exact .same

theorem submitArrival_changes (s : State) (u : RawUnit) : Changes s (submitArrival u s).2 := by
  unfold submitArrival
  split
  · exact .same
  · split_ifs with hworking hfull hvalues htag
    case neg => exact .arrival u.clamped (by omega) (eq_false_of_ne_true htag)
    all_goals exact .same

theorem submitDeparture_changes (s : State) (tag : Tag) : Changes s (submitDeparture tag s).2 := by
  unfold submitDeparture
  split
  · exact .same
  · split
    · exact .same
    · split_ifs with hstate hentry hfull
      case neg => exact .departure tag (by omega)
      all_goals exact .same

theorem withdraw_changes (s : State) (tag : Tag) : Changes s (withdraw tag s).2 := by
  unfold withdraw
  split
  · exact .same
  · split
    · exact .same
    · split
      · exact .same
      · exact .withdrawn tag

/-- R95: a closure request changes nothing unless it is taken. -/
theorem requestClosure_changes {s : State} (tag : Tag) {want : RecordState}
    {close : Image → UnitRecord → Intent → State → State}
    (hclose : ∀ im r it, Closes s im r it want → Changes s (close im r it s)) :
    Changes s (requestClosure tag want close s).2 := by
  unfold requestClosure
  split
  · exact .same
  case h_2 im him =>
    split
    · exact .same
    · split
      · exact .same
      · exact .same
      case h_3 r it hfind hintent =>
        split
        case isTrue htaken =>
          obtain rfl : r.unit.tag = tag := UnitStore.tag_of_find hfind
          exact hclose im r it ⟨him, hfind, hintent, htaken.1⟩
        case isFalse => exact .same

theorem forceRecord_changes {s : State} {im : Image} {r : UnitRecord} (him : s.image = some im)
    (hfind : s.units.find r.unit.tag = some r) : Changes s (forceRecord im r s).2 := by
  unfold forceRecord
  split
  case h_1 => exact .same
  case h_2 _ _ hstate => exact .forcedParked im r him hfind hstate
  case h_3 _ _ it hstate hintent =>
    split
    · exact .departed im r it ⟨him, hfind, hintent, hstate⟩
    · exact .forcedUnannounced im r it ⟨him, hfind, hintent, hstate⟩
  case h_4 => exact .same

theorem forced_changes (s : State) (tag : Tag) : Changes s (forced tag s).2 := by
  unfold forced
  split
  · exact .same
  case h_2 im him =>
    split
    · exact .same
    · split
      · exact .same
      case h_2 r hfind =>
        obtain rfl : r.unit.tag = tag := UnitStore.tag_of_find hfind
        exact forceRecord_changes him hfind

theorem whileWorking_changes {s : State} {handle : Image → ReplyCode × State}
    (h : ∀ im, s.image = some im → Changes s (handle im).2) : Changes s (whileWorking s handle).2 := by
  unfold whileWorking
  split
  · exact .same
  · split
    · exact h _ ‹_›
    · exact .same

theorem setWindow_changes (s : State) (lo hi : Int) : Changes s (setWindow lo hi s).2 :=
  whileWorking_changes fun im him => by
    split
    · exact .window im lo hi him
    · exact .same

theorem loadPlan_changes (s : State) (target first dflt : Byte) (es : List RawEntry) :
    Changes s (loadPlan target first dflt es s).2 := by
  unfold loadPlan
  split
  · refine whileWorking_changes fun im _ => ?_
    split_ifs
    · exact .same
    · exact .same
    · exact .switched im _ _ s.plans
  · split
    · refine whileWorking_changes fun im _ => ?_
      split
      · exact .same
      · exact .plans _
    · exact whileWorking_changes fun _ _ => .same

theorem selectStaged_changes (s : State) (target : Byte) : Changes s (selectStaged target s).2 :=
  whileWorking_changes fun im _ => by
    split
    · exact .same
    · split
      · exact .same
      · exact .plans _

/-- A switch-over from a staged plan first copies the entries of unused lanes, which changes the plan store alone. -/
theorem switchFromStaged_changes (s : State) (im : Image) (which : Staged) : Changes s (switchFromStaged im which s) :=
  .switched im _ _ (copyUnused im (s.plans.staged which) s).plans

theorem switchPlan_changes (s : State) (target : Byte) : Changes s (switchPlan target s).2 :=
  whileWorking_changes fun im _ => by
    split
    · exact .same
    · split
      · exact .same
      · exact switchFromStaged_changes s im _

theorem setBlock_changes (s : State) (blocked : Bool) (lane : Nat) : Changes s (setBlock blocked lane s).2 :=
  whileWorking_changes fun im _ => by
    split
    · exact .same
    · exact .block _

theorem readReport_changes (s : State) : Changes s (readReport s).2 := by
  rw [readReport_eq]
  split
  · exact .same
  · split
    · exact .same
    case h_2 r rest hreports => exact .reportRead r rest hreports

/-! ### What the events can do -/

theorem tryFailed_changes (s : State) (lost : Unacknowledged) : Changes s (tryFailed lost s) := by
  unfold tryFailed
  dsimp only
  split
  · exact .control _ s.fresh (.inl rfl)
  · exact .control _ s.fresh (.inr rfl)

/-- A read that ends in a failed check. -/
theorem enterFaulted_changes (s : State) (code : FaultCode) (c : Control) (fresh : Nat) :
    Changes s (enterFaulted code { s with control := c, fresh := fresh }) :=
  .control { c with station := .faulted, fault := some code, loader := .off } fresh (.inr rfl)

theorem loadEnd_changes {s : State} (image : List Byte) (hloading : s.control.station = .loading) :
    Changes s (loadEnd image s) := by
  unfold loadEnd
  extract_lets header whole read
  split
  · exact enterFaulted_changes s _ _ _
  · split
    · exact enterFaulted_changes s _ _ _
    · exact .loaded _ _ _ hloading

theorem switchAsserted_changes (s : State) : Changes s (switchAsserted s) := by
  unfold switchAsserted
  split
  · exact .plans _
  · split
    · exact .switched _ _ _ (copyUnused _ _ (setSwitch true s)).plans
    · exact .plans _

theorem receive_answers (s : State) (head : FrameHead) (body : FrameBody) : Answers s (receive head body s) := by
  refine event_answers fun _ => ?_
  dsimp only
  split
  · exact .line .judged
  case h_2 im him =>
    split
    case isTrue hhanded =>
      simp only [Bool.and_eq_true] at hhanded
      exact .frame im ⟨head.station, head.seq, body⟩ him hhanded.2
    case isFalse => exact .line .judged

theorem loadTrying_station {s : State} (h : s.loadTrying = true) : s.control.station = .loading := by
  simp only [State.loadTrying, Bool.and_eq_true, beq_iff_eq] at h
  exact h.1.2

theorem execListenExpiry_answers (s : State) : Answers s (execListenExpiry s) := by
  unfold execListenExpiry
  split
  · exact answers_same s
  · refine event_answers fun h => .listened ?_
    simp only [Bool.and_eq_true, beq_iff_eq] at h
    exact h.1

theorem execBadRequest_answers (s : State) (bytes : List Byte) : Answers s (execBadRequest bytes s) := by
  unfold execBadRequest
  split
  · exact answers_same s
  · exact serve_answers_of_reads s _

theorem execEvaluateArrival_answers (s : State) : Answers s (execEvaluateArrival s) := by
  unfold execEvaluateArrival
  split
  case h_1 im unit him hdue => exact answers_next (.evaluatedArrival im unit him hdue)
  case h_2 => exact answers_same s

theorem execEvaluateDeparture_answers (s : State) : Answers s (execEvaluateDeparture s) := by
  unfold execEvaluateDeparture
  split
  case h_1 im r him hdue => exact answers_next (.evaluatedDeparture im r him hdue)
  case h_2 => exact answers_same s

theorem execWaitLimitExpiry_answers (s : State) (tag : Tag) : Answers s (execWaitLimitExpiry tag s) := by
  unfold execWaitLimitExpiry
  split
  · exact answers_same s
  · split
    · exact answers_same s
    case h_2 e hfind => exact answers_next (.waited _ tag e hfind)

theorem execLifetimeExpiry_answers (s : State) (id : IntentId) : Answers s (execLifetimeExpiry id s) := by
  unfold execLifetimeExpiry
  split
  · exact answers_same s
  · exact answers_same s
  · exact event_answers fun _ => .livedOut id _

theorem execHeartbeatExpiry_answers (s : State) : Answers s (execHeartbeatExpiry s) := by
  unfold execHeartbeatExpiry
  split
  · exact answers_same s
  · exact event_answers fun _ => .heartbeat

theorem PeerTable.number_of_find {t : PeerTable} {n : StationNo} {p : Peer} (h : t.find n = some p) : p.number = n := by
  simpa using List.find?_some h

theorem execSilenceExpiry_answers (s : State) (n : StationNo) : Answers s (execSilenceExpiry n s) := by
  unfold execSilenceExpiry
  split
  · exact answers_same s
  · exact answers_same s
  case h_3 im p him hfind =>
    obtain rfl : p.number = n := PeerTable.number_of_find hfind
    exact event_answers fun _ => .silent im p him hfind

theorem execAttemptStart_answers (s : State) (idleBits : Nat) : Answers s (execAttemptStart idleBits s) := by
  unfold execAttemptStart
  split
  case h_1 im n rest him hqueue => exact event_answers fun _ => .attempt im n rest him hqueue
  case h_2 => exact answers_same s

theorem execAttemptComplete_answers (s : State) : Answers s (execAttemptComplete s) := by
  unfold execAttemptComplete
  split
  case h_1 im n rest him hqueue => exact event_answers fun _ => .completed im n rest hqueue
  case h_2 => exact answers_same s

theorem execRdyFirstTick_answers (s : State) : Answers s (execRdyFirstTick s) := by
  unfold execRdyFirstTick
  exact event_answers_withPort { s.port with rdy := true } (.control { s.control with ticked := true } s.fresh (.inl rfl)) rfl

theorem execSelectionBegin_answers (s : State) : Answers s (execSelectionBegin s) := by
  unfold execSelectionBegin
  exact event_answers_withPort s.port.begin .same rfl

theorem execNotReadySelection_answers (s : State) : Answers s (execNotReadySelection s) := by
  unfold execNotReadySelection
  exact event_answers_withPort { s.port with dataOut := .marker } .same rfl

theorem execNull_answers (s : State) : Answers s (execNull s) := by
  unfold execNull
  exact serve_answers .same fun p => ⟨p, rfl⟩

theorem execReadPlan_answers (s : State) (plan first : Byte) : Answers s (execReadPlan plan first s) := by
  unfold execReadPlan
  exact serve_answers (.control s.control (s.fresh + 1) (.inl rfl)) fun p => ⟨p, rfl⟩

theorem execRestart_answers (s : State) (panel switch : Bool) : Answers s (execRestart panel switch s) := by
  unfold execRestart
  exact event_answers fun _ => .restart panel switch

theorem execLineIdle_answers (s : State) : Answers s (execLineIdle s) := by
  unfold execLineIdle
  exact event_answers fun _ => .line .idle

/-! ### Every command, and every step -/

/-- Every command answers a next state, one of the changes but for the port. -/
theorem exec_answers (c : Instr) (s : State) : Answers s (exec c s) := by
  cases c with
  | reset => exact answers_next .reset
  | leaveReset panel switch => exact event_answers fun _ => .left panel switch
  | rdyFirstTick => exact execRdyFirstTick_answers s
  | loadTryFailed lost => exact event_answers fun _ => tryFailed_changes s lost
  | loadRetry => exact event_answers fun _ => .control (beginTry s).control s.fresh (.inl rfl)
  | imageLoadEnd image => exact event_answers fun h => loadEnd_changes image (loadTrying_station h)
  | listenExpiry => exact execListenExpiry_answers s
  | null => exact execNull_answers s
  | badRequest bytes => exact execBadRequest_answers s bytes
  | notReadySelection => exact execNotReadySelection_answers s
  | readStatus => exact serve_answers_of_reads s fun t => readReply t (doneWith (statusBody t))
  | readShipView => exact serve_answers_of_reads s fun t => readReply t (doneWith (shipViewBody t))
  | readLane lane first => exact serve_answers_of_reads s fun t => readReply t (laneReply t lane.toNat first.toNat)
  | readUnit tag => exact serve_answers_of_reads s fun t => readReply t (unitReply t tag)
  | readPeer number => exact serve_answers_of_reads s fun t => readReply t (peerReply t number)
  | readIntake => exact serve_answers_of_reads s fun t => readReply t (doneWith (intakeBody t))
  | readPlan plan first => exact execReadPlan_answers s plan first
  | readReport => exact readReport_portFree.serve_answers (readReport_changes s)
  | submitArrival unit => exact (submitArrival_portFree unit).serveCode_answers (submitArrival_changes s unit)
  | submitDeparture tag => exact (submitDeparture_portFree tag).serveCode_answers (submitDeparture_changes s tag)
  | withdraw tag => exact (withdraw_portFree tag).serveCode_answers (withdraw_changes s tag)
  | reportParked tag =>
    exact (requestClosure_portFree tag _ closeParked_withPort).serveCode_answers (requestClosure_changes tag .parked)
  | reportAbandoned tag =>
    exact (requestClosure_portFree tag _ closeAbandoned_withPort).serveCode_answers (requestClosure_changes tag .abandoned)
  | reportDeparted tag =>
    exact (requestClosure_portFree tag _ closeDeparted_withPort).serveCode_answers (requestClosure_changes tag .departed)
  | forcedDeparture tag => exact (forced_portFree tag).serveCode_answers (forced_changes s tag)
  | reportStayed tag =>
    exact (requestClosure_portFree tag _ closeStayed_withPort).serveCode_answers (requestClosure_changes tag .stayed)
  | setTrimWindow lo hi => exact (setWindow_portFree _ _).serveCode_answers (setWindow_changes s _ _)
  | loadPlanActive first dflt es => exact (loadPlan_portFree _ _ _ _).serveCode_answers (loadPlan_changes s _ _ _ _)
  | loadPlanStaged target first dflt es => exact (loadPlan_portFree _ _ _ _).serveCode_answers (loadPlan_changes s _ _ _ _)
  | selectStaged target => exact (selectStaged_portFree target).serveCode_answers (selectStaged_changes s target)
  | switchPlan target => exact (switchPlan_portFree target).serveCode_answers (switchPlan_changes s target)
  | switchEdge => exact event_answers fun _ => switchAsserted_changes s
  | blockLane lane => exact (setBlock_portFree _ _).serveCode_answers (setBlock_changes s _ _)
  | unblockLane lane => exact (setBlock_portFree _ _).serveCode_answers (setBlock_changes s _ _)
  | beginRestore => exact beginRestore_portFree.serveCode_answers (beginRestore_changes s)
  | restoreUnit lane offset unit => exact (restoreUnit_portFree _ _ _).serveCode_answers (restoreUnit_changes s _ _ _)
  | endRestore => exact endRestore_portFree.serveCode_answers (endRestore_changes s)
  | restart panel switch => exact execRestart_answers s panel switch
  | panelChange lowered => exact event_answers fun _ => .panel lowered
  | evaluateArrival => exact execEvaluateArrival_answers s
  | evaluateDeparture => exact execEvaluateDeparture_answers s
  | waitLimitExpiry tag => exact execWaitLimitExpiry_answers s tag
  | lifetimeExpiry id => exact execLifetimeExpiry_answers s id
  | heartbeatExpiry => exact execHeartbeatExpiry_answers s
  | silenceExpiry n => exact execSilenceExpiry_answers s n
  | attemptStart idleBits => exact execAttemptStart_answers s idleBits
  | collision => exact event_answers fun _ => .collided
  | attemptComplete => exact execAttemptComplete_answers s
  | invalidFrame bytes => exact event_answers fun _ => .line .judged
  | receiveSummary head sums parked entries => exact receive_answers s head _
  | receiveIntent head entry => exact receive_answers s head _
  | receiveSettle head id sums => exact receive_answers s head _
  | receiveRetract head id => exact receive_answers s head _
  | switchNegated => exact event_answers fun _ => .plans _
  | selectionBegin => exact execSelectionBegin_answers s
  | lineIdle => exact execLineIdle_answers s

/-- What the part does on its own while no command waits, but for the queue of commands. -/
theorem idle_changes (s : State) : ∃ u q, Changes s u ∧ idle s = { u with pending := q } := by
  unfold idle
  split
  · exact ⟨s, s.pending, .same, rfl⟩
  · split
    · exact ⟨s, _, .same, rfl⟩
    · unfold tick
      dsimp only
      split
      · exact ⟨_, _, .control { s.control with loader := s.control.loader.tick } s.fresh (.inl rfl), rfl⟩
      case h_2 im _ => exact ⟨_, _, .ticked im { s.control with loader := s.control.loader.tick } rfl, rfl⟩

/-- A step is one change of the blocks, but for the port and the queue of commands. -/
theorem step_changes {s t : State} (h : step s = .next t) :
    ∃ rest u p q, Changes { s with pending := rest } u ∧ t = { u.withPort p with pending := q } := by
  unfold step at h
  split at h
  · obtain ⟨u, q, hu, ht⟩ := idle_changes s
    refine ⟨s.pending, u, u.port, q, hu, ?_⟩
    rw [ht] at h
    injection h with h
    exact h.symm
  case h_2 c rest _ =>
    obtain ⟨u, p, hu, hexec⟩ := exec_answers c { s with pending := rest }
    refine ⟨rest, u, p, u.pending, hu, ?_⟩
    rw [hexec] at h
    injection h with h
    exact h.symm

/-- A property that looks neither at the port nor at the queue of commands, and that every change keeps, is kept by every step. -/
theorem step_keeps {P : State → Prop} (hfree : ∀ (u : State) (p : Port) (q : List Instr), P u ↔ P { u.withPort p with pending := q })
    (hchanges : ∀ s u, P s → Changes s u → P u) (s t : State) (hs : P s) (h : step s = .next t) : P t := by
  obtain ⟨rest, u, p, q, hu, rfl⟩ := step_changes h
  exact (hfree u p q).1 (hchanges _ u ((hfree s s.port rest).1 hs) hu)

end Sys2Proof.Machine
end

section
/-! PROOFS. Laws of the shared operations that the invariants rest on: the first element changed, the outbound queue after each of
its operations, the store after a record is taken out, and which operations post status reports alone. -/

namespace Sys2Proof.Machine

open Sys2Proof.Safety

/-! ### The first element that satisfies a condition -/

section
variable {α β : Type} (p : α → Bool) (f : α → α)

@[simp] theorem updateFirst_length (l : List α) : (updateFirst p f l).length = l.length := by
  induction l with
  | nil => rfl
  | cons a l ih =>
    simp only [updateFirst]
    split <;> simp [ih]

/-- Where the change is not seen, the list is seen as it was. -/
theorem updateFirst_map {g : α → β} (h : ∀ a, g (f a) = g a) (l : List α) : (updateFirst p f l).map g = l.map g := by
  induction l with
  | nil => rfl
  | cons a l ih =>
    simp only [updateFirst]
    split <;> simp [ih, h]

theorem updateFirst_filterMap {g : α → Option β} (h : ∀ a, g (f a) = g a) (l : List α) :
    (updateFirst p f l).filterMap g = l.filterMap g := by
  induction l with
  | nil => rfl
  | cons a l ih =>
    simp only [updateFirst]
    split <;> simp only [List.filterMap_cons, ih, h]

variable {p} in
/-- The element found is the one changed. -/
theorem updateFirst_of_find? {l : List α} {a : α} (h : l.find? p = some a) :
    ∃ before after, l = before ++ a :: after ∧ updateFirst p f l = before ++ f a :: after := by
  induction l with
  | nil => cases h
  | cons x l ih =>
    by_cases hx : p x
    · obtain rfl : x = a := by simpa [hx] using h
      exact ⟨[], l, rfl, by simp [updateFirst, hx]⟩
    · obtain ⟨before, after, rfl, hupdate⟩ := ih (by simpa [hx] using h)
      exact ⟨x :: before, after, rfl, by simp [updateFirst, hx, hupdate]⟩

variable {p} in
theorem updateFirst_of_none {l : List α} (h : l.find? p = none) : updateFirst p f l = l := by
  induction l with
  | nil => rfl
  | cons x l ih =>
    by_cases hx : p x
    · simp [hx] at h
    · simp [updateFirst, hx, ih (by simpa [hx] using h)]

theorem mem_of_mem_updateFirst {l : List α} {b : α} (h : b ∈ updateFirst p f l) : b ∈ l ∨ ∃ a ∈ l, b = f a := by
  induction l with
  | nil => cases h
  | cons x l ih =>
    simp only [updateFirst] at h
    split at h
    · rcases List.mem_cons.1 h with rfl | h
      · exact .inr ⟨x, by simp, rfl⟩
      · exact .inl (by simp [h])
    · rcases List.mem_cons.1 h with rfl | h
      · exact .inl (by simp)
      · rcases ih h with h | ⟨a, ha, rfl⟩
        · exact .inl (by simp [h])
        · exact .inr ⟨a, by simp [ha], rfl⟩

end

/-! ### Reports -/

theorem post_reports (r : Report) (s : State) : (post r s).reports = admitted r s.reports := rfl

theorem admitted_decision {r : Report} (h : r.isDecision = true) (reports : List Report) :
    admitted r reports = reports ++ [r] := by
  simp [admitted, h]

theorem admitted_status {r : Report} (h : r.isDecision = false) (reports : List Report) :
    admitted r reports = if reports.length < 24 then reports ++ [r] else reports := by
  simp [admitted, h, Config.statusBelow]

theorem admitted_status_length_le {r : Report} (h : r.isDecision = false) (reports : List Report) :
    (admitted r reports).length ≤ max reports.length 24 := by
  rw [admitted_status h]
  split
  · rw [List.length_append, List.length_singleton]
    omega
  · omega

/-- R35: the entry found is refused while fewer than 28 reports are held. -/
theorem refuseMarked_cases (s : State) :
    refuseMarked s = s ∨ ∃ e, s.reports.length < 28 ∧ s.intake.find? Entry.refusable = some e ∧
      refuseMarked s =
        { s with
          intake := s.intake.eraseP Entry.refusable
          reports := s.reports ++ [.refused e.tag .waitLimit] } := by
  unfold refuseMarked
  split
  case isTrue hroom =>
    cases hfind : s.intake.find? Entry.refusable with
    | none => exact .inl rfl
    | some e => exact .inr ⟨e, hroom, rfl, rfl⟩
  case isFalse => exact .inl rfl

/-! ### The outbound queue -/

/-- How many SUMMARY notices a queue holds (R117). -/
def summaries (queue : List Notice) : Nat := (queue.filter fun n => n == .summary).length

@[simp] theorem summaries_append (a b : List Notice) : summaries (a ++ b) = summaries a + summaries b := by
  simp [summaries]

theorem summaries_cons (n : Notice) (q : List Notice) :
    summaries (n :: q) = (if n = .summary then 1 else 0) + summaries q := by
  by_cases h : n = .summary <;> simp [summaries, h, Nat.add_comm]

theorem summaries_le_of_sublist {a b : List Notice} (h : a.Sublist b) : summaries a ≤ summaries b :=
  (h.filter _).length_le

theorem summaries_eq_zero_iff (q : List Notice) : summaries q = 0 ↔ Notice.summary ∉ q := by
  simp only [summaries, List.length_eq_zero_iff, List.filter_eq_nil_iff, beq_iff_eq]
  exact ⟨fun h hmem => h _ hmem rfl, fun h n hn e => h (e ▸ hn)⟩

theorem Bus.hasSummary_iff (b : Bus) : b.hasSummary = true ↔ Notice.summary ∈ b.queue := by
  simp [Bus.hasSummary]

theorem Bus.summaries_of_not_hasSummary {b : Bus} (h : ¬ b.hasSummary = true) : summaries b.queue = 0 := by
  rwa [summaries_eq_zero_iff, ← Bus.hasSummary_iff]

@[simp] theorem Bus.join_queue (b : Bus) (n : Notice) : (b.join n).queue = b.queue ++ [n] := by
  unfold Bus.join
  split <;> simp [*]

/-- R117: a SUMMARY placed in a queue that holds none is the only one there. -/
theorem summaries_placeSummary {q : List Notice} (h : summaries q = 0) : summaries (placeSummary q) = 1 := by
  unfold placeSummary
  split
  · have hbefore := summaries_le_of_sublist (List.takeWhile_sublist (p := fun n => !n.isClosure) (l := q))
    have hafter := summaries_le_of_sublist
      ((List.filter_sublist (p := fun n => !Notice.isClosure n)).trans (List.dropWhile_sublist (p := fun n => !n.isClosure) (l := q)))
    rw [summaries_append, summaries_cons, if_pos rfl]
    omega
  · rw [summaries_append, h]
    rfl

theorem Bus.summaries_queueSummary {b : Bus} (h : ¬ b.hasSummary = true) : summaries b.queueSummary.queue = 1 := by
  have hnone := Bus.summaries_of_not_hasSummary h
  cases hqueue : b.queue with
  | nil => cases hsending : b.sending <;> simp [Bus.queueSummary, hqueue, hsending] <;> rfl
  | cons front rest =>
    rw [hqueue] at hnone
    have hfront : summaries (front :: placeSummary rest) = 1 := by
      rw [summaries_cons] at hnone ⊢
      rw [summaries_placeSummary (by omega)]
      omega
    cases hsending : b.sending with
    | some bytes => simpa [Bus.queueSummary, hqueue, hsending] using hfront
    | none =>
      simp only [Bus.queueSummary, hqueue, hsending]
      split <;> exact summaries_placeSummary hnone

theorem Bus.markRefresh_queue (b : Bus) : b.markRefresh.queue = b.queue := by
  unfold Bus.markRefresh
  split <;> rfl

theorem Bus.summaries_askSummary_le (b : Bus) : summaries b.askSummary.queue ≤ max (summaries b.queue) 1 := by
  unfold Bus.askSummary
  split
  · exact Nat.le_max_left _ _
  · rw [Bus.summaries_queueSummary ‹_›]
    exact Nat.le_max_right _ _

theorem Bus.summaries_askSummaryForced_le (b : Bus) : summaries b.askSummaryForced.queue ≤ max (summaries b.queue) 1 := by
  unfold Bus.askSummaryForced
  split
  · rw [Bus.markRefresh_queue]
    exact Nat.le_max_left _ _
  · rw [Bus.summaries_queueSummary ‹_›]
    exact Nat.le_max_right _ _

theorem Bus.summaries_handOnClosure_le (b : Bus) {n : Notice} (hn : n ≠ .summary) :
    summaries (b.handOnClosure n).queue ≤ summaries b.queue := by
  unfold Bus.handOnClosure
  split
  · rw [Bus.markRefresh_queue]
  · rw [Bus.join_queue, summaries_append, summaries_cons, if_neg hn]
    exact Nat.le_refl _

/-- The bus controller once the INTENT notice of an id has left its queue (R91, R113). -/
theorem Bus.dropIntent_eq (b : Bus) (id : IntentId) :
    b.dropIntent id =
      if ∃ front, b.queue.head? = some front ∧ front.isIntentOf id = true then
        { b with queue := b.queue.filter (fun n => !n.isIntentOf id), attempts := 0, frontSeq := none, sending := none }
      else { b with queue := b.queue.filter fun n => !n.isIntentOf id } := by
  obtain ⟨queue, attempts, frontSeq, refresh, sending, counter, heartbeat, line⟩ := b
  cases queue with
  | nil => simp [Bus.dropIntent]
  | cons front rest => cases hfront : front.isIntentOf id <;> simp [Bus.dropIntent, hfront, Bus.newFront]

theorem Bus.dropIntent_queue (b : Bus) (id : IntentId) :
    (b.dropIntent id).queue = b.queue.filter fun n => !n.isIntentOf id := by
  rw [Bus.dropIntent_eq]
  split <;> rfl

/-! ### Records -/

@[simp] theorem UnitStore.remove_records (u : UnitStore) (tag : Tag) :
    (u.remove tag).records = u.records.filter fun r => r.unit.tag != tag := by
  unfold UnitStore.remove
  split
  case h_1 hfind =>
    simp only [UnitStore.find, List.find?_eq_none, Bool.not_eq_true] at hfind
    exact (List.filter_eq_self.2 fun r hr => by simpa using hfind r hr).symm
  case h_2 => rfl

@[simp] theorem UnitStore.remove_lowered (u : UnitStore) (tag : Tag) : (u.remove tag).lowered = u.lowered := by
  unfold UnitStore.remove
  split <;> rfl

theorem UnitStore.remove_of_find {u : UnitStore} {tag : Tag} {r : UnitRecord} (h : u.find tag = some r) :
    u.remove tag =
      { u with
        records := u.records.filter fun x => x.unit.tag != tag
        sums := if r.counts then u.sums.add r.contrib.neg else u.sums } := by
  simp [UnitStore.remove, h]

@[simp] theorem insertRecord_units (im : Image) (r : UnitRecord) (s : State) :
    (insertRecord im r s).units = s.units.insert r := by
  simp [insertRecord]

@[simp] theorem removeRecord_units (im : Image) (r : UnitRecord) (s : State) :
    (removeRecord im r s).units = s.units.remove r.unit.tag := by
  simp [removeRecord]

theorem UnitStore.mem_of_find {u : UnitStore} {tag : Tag} {r : UnitRecord} (h : u.find tag = some r) : r ∈ u.records :=
  List.mem_of_find?_eq_some h

theorem IntentTable.mem_of_ofTag {t : IntentTable} {tag : Tag} {it : Intent} (h : t.ofTag tag = some it) : it ∈ t.open_ :=
  List.mem_of_find?_eq_some h

theorem IntentTable.tag_of_ofTag {t : IntentTable} {tag : Tag} {it : Intent} (h : t.ofTag tag = some it) : it.tag = tag := by
  simpa using List.find?_some h

theorem IntentTable.mem_of_find {t : IntentTable} {id : IntentId} {it : Intent} (h : t.find id = some it) : it ∈ t.open_ :=
  List.mem_of_find?_eq_some h

theorem IntentTable.id_of_find {t : IntentTable} {id : IntentId} {it : Intent} (h : t.find id = some it) : it.id = id := by
  simpa using List.find?_some h

/-- The four steps of a cancellation, block by block (R91). -/
theorem cancelSteps_intents (im : Image) (it : Intent) (s : State) : (cancelSteps im it s).intents = s.intents.free it.id := by
  simp [cancelSteps]

theorem cancelSteps_bus (im : Image) (it : Intent) (s : State) : (cancelSteps im it s).bus = s.bus.dropIntent it.id := by
  simp [cancelSteps]

theorem cancelSteps_intake (im : Image) (it : Intent) (s : State) :
    (cancelSteps im it s).intake =
      updateFirst (Entry.isPlacingFor it.id) (Entry.putBack (unitGivenBack s it)) s.intake := by
  simp [cancelSteps]

theorem cancelSteps_units (im : Image) (it : Intent) (s : State) :
    (cancelSteps im it s).units =
      match it.dir with
      | .place => s.units.remove it.tag
      | .remove => s.units.putBack it.tag := by
  simp only [cancelSteps, cancelRecord]
  cases it.dir with
  | remove => rfl
  | place =>
    cases hfind : s.units.find it.tag with
    | none => simp [UnitStore.remove, hfind]
    | some r => simp [UnitStore.tag_of_find hfind]

theorem cancelSteps_reports (im : Image) (it : Intent) (s : State) :
    (cancelSteps im it s).reports = (cancelRecord im it { s with bus := s.bus.dropIntent it.id }).reports := rfl

/-- The station on its entry to QUIET, before an UNANNOUNCED intent is cancelled (R121, R137, R177). -/
def quieted (im : Image) (s : State) : State :=
  { s with
    control := { s.control with station := .quiet, listen := none }
    bus := s.bus.silence
    reports := admitted (.duplicateNumber im.stationNo) s.reports }

theorem enterQuiet_of_none {s : State} (h : s.intents.open_.find? (fun it => it.state == .unannounced) = none) (im : Image) :
    enterQuiet im s = quieted im s := by
  unfold enterQuiet
  dsimp only
  rw [show (post (.duplicateNumber im.stationNo) s).intents = s.intents from rfl, h]
  rfl

theorem enterQuiet_of_some {s : State} {it : Intent}
    (h : s.intents.open_.find? (fun it => it.state == .unannounced) = some it) (im : Image) :
    enterQuiet im s = cancelIntent im it (quieted im s) := by
  unfold enterQuiet
  dsimp only
  rw [show (post (.duplicateNumber im.stationNo) s).intents = s.intents from rfl, h]
  rfl

theorem freed_intake (im : Image) (lane : Nat) (s : State) : (freed im lane s).intake = s.intake.map Entry.release := by
  simp [freed]

end Sys2Proof.Machine
end

section
/-! PROOFS. The bounds of intents, reports, entries and SUMMARY notices (R21, R88, R93, R117, R168) are kept by every step. Most
operations pass no bound that was not passed before, which `Within` says as a preorder; only opening and announcing an intent need
more. -/

namespace Sys2Proof.Machine

open Sys2Proof.Safety

/-- How many open intents are UNANNOUNCED (R88). -/
def IntentTable.unannounced (t : IntentTable) : Nat := (t.open_.filter fun it => it.state == .unannounced).length

theorem IntentTable.hasUnannounced_iff (t : IntentTable) : t.hasUnannounced = true ↔ 0 < t.unannounced := by
  simp [IntentTable.hasUnannounced, IntentTable.unannounced, List.length_pos_iff_exists_mem]

/-- The bounds of R21, R88, R93, R117 and R168. -/
def BoundsHold (s : State) : Prop := Bounded s ∧ OneSummary s ∧ IntakeBounded s

theorem bounds_iff (s : State) :
    BoundsHold s ↔ s.intents.open_.length ≤ 4 ∧ s.intents.unannounced ≤ 1 ∧ s.reports.length ≤ 29 ∧
      (0 < s.intents.unannounced → s.reports.length ≤ 28) ∧ summaries s.bus.queue ≤ 1 ∧ s.intake.length ≤ 8 := by
  rw [← IntentTable.hasUnannounced_iff]
  simp only [BoundsHold, Bounded, OneSummary, IntakeBounded, and_assoc]
  rfl

/-- No bound is passed in `u` that was not passed in `s`: reports may grow to 28, SUMMARY notices to one, entries to 8. -/
structure Within (s u : State) : Prop where
  intents : u.intents.open_.length ≤ s.intents.open_.length
  unannounced : u.intents.unannounced ≤ s.intents.unannounced
  reports : u.reports.length ≤ max s.reports.length 28
  summary : summaries u.bus.queue ≤ max (summaries s.bus.queue) 1
  intake : u.intake.length ≤ max s.intake.length 8

theorem Within.trans {s t u : State} (h : Within s t) (g : Within t u) : Within s u where
  intents := g.intents.trans h.intents
  unannounced := g.unannounced.trans h.unannounced
  reports := by have := g.reports; have := h.reports; omega
  summary := by have := g.summary; have := h.summary; omega
  intake := by have := g.intake; have := h.intake; omega

theorem BoundsHold.within {s u : State} (h : BoundsHold s) (g : Within s u) : BoundsHold u := by
  obtain ⟨hintents, hunannounced, hreports, hwaiting, hsummaries, hintake⟩ := (bounds_iff s).1 h
  obtain ⟨gintents, gunannounced, greports, gsummaries, gintake⟩ := g
  exact (bounds_iff u).2 ⟨by omega, by omega, by omega, by omega, by omega, by omega⟩

/-- An operation that leaves the four blocks alone. -/
theorem Within.of_eq {s u : State} (hintents : u.intents = s.intents) (hreports : u.reports = s.reports)
    (hbus : u.bus = s.bus) (hintake : u.intake = s.intake) : Within s u where
  intents := by rw [hintents]
  unannounced := by rw [hintents]
  reports := by rw [hreports]; exact Nat.le_max_left _ _
  summary := by rw [hbus]; exact Nat.le_max_left _ _
  intake := by rw [hintake]; exact Nat.le_max_left _ _

/-- An operation that comes after a change of other blocks alone. -/
theorem Within.after_eq {s t u : State} (h : Within t u) (hintents : t.intents = s.intents) (hreports : t.reports = s.reports)
    (hbus : t.bus = s.bus) (hintake : t.intake = s.intake) : Within s u :=
  (Within.of_eq hintents hreports hbus hintake).trans h

theorem Within.refl (s : State) : Within s s := .of_eq rfl rfl rfl rfl

/-! ### Each operation stays within the bounds -/

/-- An operation on the report queue alone. -/
theorem Within.of_reports {s u : State} (hintents : u.intents = s.intents) (hbus : u.bus = s.bus)
    (hintake : u.intake = s.intake) (hreports : u.reports.length ≤ max s.reports.length 28) : Within s u where
  intents := by rw [hintents]
  unannounced := by rw [hintents]
  reports := hreports
  summary := by rw [hbus]; exact Nat.le_max_left _ _
  intake := by rw [hintake]; exact Nat.le_max_left _ _

theorem within_post {r : Report} (h : r.isDecision = false) (s : State) : Within s (post r s) := by
  refine .of_reports rfl rfl rfl ?_
  have := admitted_status_length_le h s.reports
  rw [post_reports]
  omega

/-- An operation on the outbound queue alone. -/
theorem Within.of_bus {s : State} {b : Bus} (h : summaries b.queue ≤ max (summaries s.bus.queue) 1) :
    Within s { s with bus := b } :=
  ⟨Nat.le_refl _, Nat.le_refl _, Nat.le_max_left _ _, h, Nat.le_max_left _ _⟩

/-- An operation on the entries alone that adds none. -/
theorem Within.of_intake {s : State} {entries : List Entry} (h : entries.length ≤ s.intake.length) :
    Within s { s with intake := entries } :=
  ⟨Nat.le_refl _, Nat.le_refl _, Nat.le_max_left _ _, Nat.le_max_left _ _, h.trans (Nat.le_max_left _ _)⟩

theorem within_releaseHeld (s : State) : Within s (releaseHeld s) :=
  .of_intake (by simp)

theorem within_settle (s : State) : Within s (settle s) := by
  unfold settle
  split
  · exact .refl s
  · dsimp only
    split
    · exact .refl s
    · refine Within.after_eq (within_post ?_ _) rfl rfl rfl rfl
      split <;> rfl

theorem within_compareNearFull (im : Image) (lane : Nat) (s : State) : Within s (compareNearFull im lane s) := by
  unfold compareNearFull
  dsimp only
  split
  · exact .refl s
  · split
    · exact Within.after_eq (within_post rfl _) rfl rfl rfl rfl
    · exact .of_eq rfl rfl rfl rfl

theorem within_compareChanged (im : Image) (before : PlanStore) (lanes : List Nat) (s : State) :
    Within s (compareChanged im before lanes s) := by
  induction lanes generalizing s with
  | nil => exact .refl s
  | cons lane rest ih =>
    unfold compareChanged
    split
    · exact ih s
    · exact (within_compareNearFull im lane s).trans (ih _)

theorem within_insertRecord (im : Image) (r : UnitRecord) (s : State) : Within s (insertRecord im r s) :=
  Within.trans (t := { s with units := s.units.insert r }) (.of_eq rfl rfl rfl rfl) (within_compareNearFull im r.lane _)

theorem within_removeRecord (im : Image) (r : UnitRecord) (s : State) : Within s (removeRecord im r s) :=
  Within.trans (t := { s with units := s.units.remove r.unit.tag }) (.of_eq rfl rfl rfl rfl)
    (within_compareNearFull im r.lane _)

theorem within_takeEntry (lane : Nat) (e : PlanEntry) (s : State) : Within s (takeEntry lane e s) :=
  Within.after_eq (within_post rfl _) rfl rfl rfl rfl

theorem within_applyPending (im : Image) (lane : Nat) (s : State) : Within s (applyPending im lane s) := by
  unfold applyPending
  split
  · exact .refl s
  · split
    · exact .refl s
    · exact (within_takeEntry lane _ s).trans (within_compareChanged im _ _ _)

theorem within_freed (im : Image) (lane : Nat) (s : State) : Within s (freed im lane s) :=
  (within_applyPending im lane s).trans ((within_releaseHeld _).trans (within_settle _))

theorem within_switchOver (im : Image) (new : List (Nat × PlanEntry)) (dflt : Option Nat) (s : State) :
    Within s (switchOver im new dflt s) :=
  Within.trans (t := switched new dflt s) (Within.after_eq (within_post rfl _) rfl rfl rfl rfl)
    ((within_compareChanged im _ _ _).trans (within_releaseHeld _))

/-- R35: a refusal needs fewer than 28 reports. -/
theorem within_refuseMarked (s : State) : Within s (refuseMarked s) := by
  rcases refuseMarked_cases s with h | ⟨e, hroom, -, h⟩
  · rw [h]; exact .refl s
  · rw [h]
    refine Within.trans (.of_intake (List.eraseP_sublist.length_le)) (.of_reports rfl rfl rfl ?_)
    rw [List.length_append, List.length_singleton]
    dsimp only
    omega

theorem within_handOn {n : Notice} (hn : n ≠ .summary) (s : State) : Within s (handOn n s) := by
  unfold handOn
  split
  · exact .of_bus ((s.bus.summaries_handOnClosure_le hn).trans (Nat.le_max_left _ _))
  · exact .refl s

/-- Operations on the intent table alone that open and announce none. -/
theorem Within.of_intents {s : State} {table : IntentTable} (hopen : table.open_.length ≤ s.intents.open_.length)
    (hunannounced : table.unannounced ≤ s.intents.unannounced) : Within s { s with intents := table } :=
  ⟨hopen, hunannounced, Nat.le_max_left _ _, Nat.le_max_left _ _, Nat.le_max_left _ _⟩

theorem within_free (id : IntentId) (s : State) : Within s { s with intents := s.intents.free id } :=
  have hsublist : (s.intents.free id).open_.Sublist s.intents.open_ := List.filter_sublist
  .of_intents hsublist.length_le (hsublist.filter _).length_le

theorem within_cancelSteps (im : Image) (it : Intent) (s : State) : Within s (cancelSteps im it s) := by
  have hbus : Within s { s with bus := s.bus.dropIntent it.id } := by
    refine .of_bus (Nat.le_trans ?_ (Nat.le_max_left _ _))
    rw [Bus.dropIntent_queue]
    exact summaries_le_of_sublist List.filter_sublist
  have hrecord : ∀ t, Within t (cancelRecord im it t) := by
    intro t
    unfold cancelRecord
    split
    · exact within_removeRecord im _ t
    · exact .refl t
    · exact .of_eq rfl rfl rfl rfl
  refine hbus.trans ((hrecord _).trans ((within_free it.id _).trans (.of_intake ?_)))
  rw [updateFirst_length]

theorem within_cancelIntent (im : Image) (it : Intent) (s : State) : Within s (cancelIntent im it s) :=
  (within_cancelSteps im it s).trans ((within_freed im _ _).trans (within_refuseMarked _))

theorem within_forceOut (im : Image) (r : UnitRecord) (s : State) : Within s (forceOut im r s) := by
  have hdrop : Within (removeRecord im r s) (dropDeparture r.unit.tag (removeRecord im r s)) :=
    .of_intake List.eraseP_sublist.length_le
  refine (within_removeRecord im r s).trans (hdrop.trans ?_)
  unfold forceOut summaryForced
  split
  · exact .of_bus (Bus.summaries_askSummaryForced_le _)
  · exact .refl _

theorem within_enterQuiet (im : Image) (s : State) : Within s (enterQuiet im s) := by
  have hsilent : ∀ t : State, Within t
      { t with control := { t.control with station := .quiet, listen := none }, bus := t.bus.silence } :=
    fun t => Within.trans (.of_bus (b := t.bus.silence) (Nat.zero_le _)) (.of_eq rfl rfl rfl rfl)
  unfold enterQuiet
  dsimp only
  split
  · exact Within.trans (within_post rfl s) (hsilent _)
  · exact Within.trans (within_post rfl s) ((hsilent _).trans (within_cancelIntent im _ _))

theorem within_putPeer (before after : Peer) (s : State) : Within s (putPeer before after s) := by
  have hput : Within s { s with peers := s.peers.put after } := .of_eq rfl rfl rfl rfl
  have hreport : ∀ t, Within t (postIf (peerReport before after) t) := by
    intro t
    unfold peerReport postIf
    split
    · exact .refl t
    case h_2 r hr =>
      refine within_post ?_ t
      split_ifs at hr
      all_goals cases hr; rfl
  unfold putPeer
  dsimp only
  split
  · exact hput.trans ((hreport _).trans ((within_releaseHeld _).trans (within_settle _)))
  · exact hput

theorem within_takeFrame (im : Image) (f : Frame) (s : State) : Within s (takeFrame im f s) := by
  unfold takeFrame
  split
  · split
    · exact within_enterQuiet im s
    · exact .refl s
  · split
    · exact within_putPeer _ _ s
    · unfold takeStray
      split
      · exact .refl s
      · exact Within.after_eq (within_post rfl _) rfl rfl rfl rfl

theorem within_enterJoined (s : State) : Within s (enterJoined s) :=
  Within.trans (.of_bus (b := { s.bus.askSummary with heartbeat := some 0 }) s.bus.summaries_askSummary_le)
    ((within_releaseHeld _).after_eq rfl rfl rfl rfl)

theorem within_postConflicts (im : Image) (lanes : List Nat) (s : State) : Within s (postConflicts im lanes s) := by
  induction lanes generalizing s with
  | nil => exact .refl s
  | cons lane rest ih =>
    unfold postConflicts
    split
    · exact (within_post rfl s).trans (ih _)
    · exact ih s

theorem within_panelChanged (lowered : Bool) (s : State) : Within s (panelChanged lowered s) := by
  unfold panelChanged
  dsimp only
  refine Within.trans ?_ (within_releaseHeld _)
  split
  · exact Within.after_eq (within_postConflicts _ _ _) rfl rfl rfl rfl
  · exact .of_eq rfl rfl rfl rfl

/-- R34: a refusal at the wait limit needs fewer than 28 reports. -/
theorem within_waitOver (im : Image) (tag : Tag) (e : Entry) (s : State) : Within s (waitOver im tag e s) := by
  unfold waitOver
  split
  case isTrue hroom =>
    simp only [Bool.and_eq_true, decide_eq_true_eq, Config.decisionBelow] at hroom
    refine Within.trans (.of_intake List.eraseP_sublist.length_le) (.of_reports rfl rfl rfl ?_)
    rw [post_reports, admitted_decision rfl, List.length_append, List.length_singleton]
    dsimp only
    omega
  case isFalse => exact .of_intake (by rw [updateFirst_length])

/-- Ticks and state changes of announced intents leave the UNANNOUNCED ones alone. -/
theorem unannounced_map_tick (limit : Nat) (l : List Intent) :
    ((l.map (Intent.tick limit)).filter fun it => it.state == .unannounced).length =
      (l.filter fun it => it.state == .unannounced).length := by
  have h : ∀ it : Intent, ((Intent.tick limit it).state == .unannounced) = (it.state == .unannounced) := by
    intro it
    unfold Intent.tick
    cases hstate : it.state <;> simp [hstate]
  rw [List.filter_map, List.length_map]
  simp only [Function.comp_def, h]

theorem within_tickBlocks (im : Image) (s : State) : Within s (tickBlocks im s) where
  intents := by simp [tickBlocks]
  unannounced := by simp [tickBlocks, IntentTable.unannounced, unannounced_map_tick]
  reports := Nat.le_max_left _ _
  summary := Nat.le_max_left _ _
  intake := by simp [tickBlocks]

theorem IntentTable.unannounced_setState_le (t : IntentTable) (id : IntentId) {st : IntentState} (h : st ≠ .unannounced) :
    (t.setState id st).unannounced ≤ t.unannounced := by
  unfold IntentTable.unannounced IntentTable.setState
  dsimp only
  induction t.open_ with
  | nil => exact Nat.le_refl _
  | cons it l ih =>
    by_cases hid : it.id == id
    · have hnew : (st == IntentState.unannounced) = false := by simpa using h
      cases hold : it.state == .unannounced <;> simp [updateFirst, hid, hnew, hold]
    · cases hold : it.state == .unannounced <;> simpa [updateFirst, hid, hold] using ih

theorem within_setState {id : IntentId} {st : IntentState} (h : st ≠ .unannounced) (s : State) :
    Within s { s with intents := s.intents.setState id st } :=
  .of_intents (by simp) (s.intents.unannounced_setState_le id h)

/-! ### Opening and announcing -/

/-- R28: the gate is open only with no UNANNOUNCED intent, fewer than 4 intents and fewer than 28 reports. -/
theorem gateOpen_bounds {s : State} (h : gateOpen s = true) :
    s.intents.unannounced = 0 ∧ s.intents.open_.length < 4 ∧ s.reports.length < 28 := by
  unfold gateOpen at h
  split at h
  · cases h
  · simp only [Bool.and_eq_true, Bool.not_eq_true', decide_eq_true_eq] at h
    obtain ⟨⟨⟨⟨-, hnone⟩, hintents⟩, hreports⟩, -⟩ := h
    have := s.intents.hasUnannounced_iff
    rw [hnone] at this
    exact ⟨by simpa using this, hintents, hreports⟩

/-- A report of 28 is left for the intent that is opened (R168). -/
theorem bounds_openIntent {s : State} (h : BoundsHold s) (hnone : s.intents.unannounced = 0) (hopen : s.intents.open_.length < 4)
    (hreports : s.reports.length ≤ 28) (dir : Direction) (tag : Tag) (delta : Quad) : BoundsHold (openIntent dir tag delta s) := by
  obtain ⟨-, -, -, -, hsummaries, hintake⟩ := (bounds_iff s).1 h
  have hunannounced : (openIntent dir tag delta s).intents.unannounced = 1 := by
    simp only [IntentTable.unannounced] at hnone ⊢
    simp [hnone]
  have hqueue : summaries (openIntent dir tag delta s).bus.queue = summaries s.bus.queue := by
    simp [summaries]
  refine (bounds_iff _).2 ⟨?_, by omega, ?_, fun _ => ?_, by omega, ?_⟩ <;> simp <;> omega

theorem arrivalDue_gateOpen {s : State} {unit : UnitId} (h : arrivalDue s = some unit) : gateOpen s = true := by
  unfold arrivalDue at h
  split at h
  · assumption
  · cases h

theorem departureDue_gateOpen {s : State} {r : UnitRecord} (h : departureDue s = some r) : gateOpen s = true := by
  unfold departureDue at h
  split at h
  · assumption
  · cases h

/-- A refusal of the entry taken is a decision report, for which the gate left room (R28, R30, R31). -/
theorem within_refuseTaken {s : State} (hroom : s.reports.length < 28) (tag : Tag) (reason : RefusedReason) :
    Within s (refuseTaken tag reason s) := by
  rw [refuseTaken_eq]
  refine Within.trans (.of_intake List.eraseP_sublist.length_le) (.of_reports rfl rfl rfl ?_)
  rw [List.length_append, List.length_singleton]
  dsimp only
  omega

theorem within_updateTaken (f : Entry → Entry) (s : State) : Within s (updateTaken f s) :=
  .of_intake (by rw [updateFirst_length])

theorem bounds_applyArrival {s : State} (h : BoundsHold s) (im : Image) (unit : UnitId) (hgate : gateOpen s = true) :
    BoundsHold (applyArrival im unit s) := by
  obtain ⟨hnone, hopen, hreports⟩ := gateOpen_bounds hgate
  unfold applyArrival
  split
  case h_1 c _ =>
    have hinsert := within_insertRecord im c.record s
    have hroom := hinsert.reports
    refine BoundsHold.within (bounds_openIntent (h.within hinsert) ?_ ?_ (by omega) .place c.unit.tag c.contrib)
      ((within_updateTaken _ _).trans (within_settle _))
    · have := hinsert.unannounced; omega
    · have := hinsert.intents; omega
  case h_2 => exact h.within (within_updateTaken _ s)
  case h_3 => exact h.within (within_refuseTaken hreports _ _)

theorem bounds_applyDeparture {s : State} (h : BoundsHold s) (im : Image) (r : UnitRecord) (hgate : gateOpen s = true) :
    BoundsHold (applyDeparture im r s) := by
  obtain ⟨hnone, hopen, hreports⟩ := gateOpen_bounds hgate
  unfold applyDeparture
  split_ifs
  · exact h.within (within_refuseTaken hreports _ _)
  · exact h.within (within_updateTaken _ s)
  · exact h.within (within_updateTaken _ s)
  · have hleaving : Within s { s with units := s.units.setState r.unit.tag .leaving } := .of_eq rfl rfl rfl rfl
    exact BoundsHold.within (bounds_openIntent (h.within hleaving) hnone hopen hreports.le .remove r.unit.tag r.contrib.neg)
      ((within_updateTaken _ _).trans (within_settle _))

/-- R93: the intent announced was the one that waited to be; its report is the twenty-ninth at most. -/
theorem bounds_announce {s : State} (h : BoundsHold s) (im : Image) {id : IntentId} {it : Intent}
    (hfind : s.intents.find id = some it) (hstate : it.state = .unannounced) : BoundsHold (announce im it s) := by
  obtain ⟨hintents, hone, -, hwaiting, hsummaries, hintake⟩ := (bounds_iff s).1 h
  obtain rfl : it.id = id := IntentTable.id_of_find hfind
  obtain ⟨before, after, hlist, hupdate⟩ :=
    updateFirst_of_find? (fun x : Intent => { x with state := .announced 0 }) (show s.intents.open_.find? _ = some it from hfind)
  have hcount : (announce im it s).intents.unannounced + 1 = s.intents.unannounced := by
    have hafter : (announce im it s).intents.open_ = before ++ { it with state := .announced 0 } :: after := hupdate
    rw [IntentTable.unannounced, IntentTable.unannounced, hafter, hlist]
    simp [hstate, Nat.add_assoc]
  have hlength : (announce im it s).intents.open_.length = s.intents.open_.length := by simp
  have hreports : (announce im it s).reports.length = s.reports.length + 1 := by
    have hdecision : ∀ t, (announcementReport im it t).isDecision = true := by
      intro t
      unfold announcementReport
      cases it.dir <;> rfl
    rw [announce, post_reports, admitted_decision (hdecision _)]
    simp
  have hqueue : (announce im it s).bus = s.bus := by simp
  have hentries : (announce im it s).intake.length ≤ s.intake.length := by
    rw [show (announce im it s).intake = s.intake.eraseP _ from rfl]
    exact List.eraseP_sublist.length_le
  exact (bounds_iff _).2 ⟨by omega, by omega, by omega, by omega, by rw [hqueue]; exact hsummaries, by omega⟩

theorem bounds_complete {s : State} (h : BoundsHold s) (im : Image) {n : Notice} {rest : List Notice}
    (hqueue : s.bus.queue = n :: rest) : BoundsHold (complete im n rest s) := by
  have hsummaries := ((bounds_iff s).1 h).2.2.2.2.1
  rw [hqueue, summaries_cons] at hsummaries
  have hdone : Within s { s with bus := s.bus.completed rest } := by
    refine .of_bus ?_
    rw [(Bus.completed_fields s.bus rest).1]
    omega
  unfold complete
  dsimp only
  split
  · split
    · refine h.within (.of_bus ?_)
      rw [if_pos rfl] at hsummaries
      rw [Bus.join_queue, summaries_append, (Bus.completed_fields s.bus rest).1, summaries_cons, if_pos rfl]
      have : summaries [] = 0 := rfl
      omega
    · exact h.within hdone
  · split
    case h_1 it hfind =>
      split
      · exact bounds_announce (h.within hdone) im hfind ‹_›
      · exact h.within hdone
    case h_2 => exact h.within hdone
  · exact h.within hdone
  · exact h.within hdone

theorem bounds_startAttempt {s : State} (h : BoundsHold s) (im : Image) (n : Notice) : BoundsHold (startAttempt im n s) := by
  have hbegin : ∀ n, Within s (beginAttempt im n s) := fun n => .of_bus (Nat.le_max_left _ _)
  unfold startAttempt
  split
  · split
    · split
      · exact h.within (hbegin _)
      · exact h.within (within_cancelIntent im _ s)
    · refine h.within (.of_bus (Nat.le_trans ?_ (Nat.le_max_left _ _)))
      rw [Bus.dropIntent_queue]
      exact summaries_le_of_sublist List.filter_sublist
  all_goals exact h.within (hbegin _)

/-- R21: an entry joins the queue only where it holds fewer than 8. -/
theorem within_joinQueue {s : State} (hroom : s.intake.length < 8) (ask : Ask) : Within s (joinQueue ask s) where
  intents := Nat.le_refl _
  unannounced := Nat.le_refl _
  reports := Nat.le_max_left _ _
  summary := Nat.le_max_left _ _
  intake := by simp; omega

theorem bounds_resetAll (s : State) : BoundsHold (resetAll s) := by
  simp [bounds_iff, resetAll, State.reset, IntentTable.unannounced, summaries]

/-- Every change keeps the bounds. -/
theorem Changes.keeps_bounds {s u : State} (h : BoundsHold s) (hu : Changes s u) : BoundsHold u := by
  cases hu with
  | same => exact h
  | reset => exact bounds_resetAll s
  | restart panel switch => exact (bounds_resetAll s).within (.of_eq rfl rfl rfl rfl)
  | left => exact h.within (.of_eq rfl rfl rfl rfl)
  | control => exact h.within (.of_eq rfl rfl rfl rfl)
  | loaded => exact h.within (Within.after_eq (within_settle _) rfl rfl rfl rfl)
  | listened =>
    unfold listenOver
    dsimp only
    split
    · exact h.within (.of_eq rfl rfl rfl rfl)
    · exact h.within (Within.after_eq (within_enterJoined _) rfl rfl rfl rfl)
  | joined => exact h.within (within_enterJoined s)
  | reportRead r rest hreports =>
    refine h.within (Within.trans (t := { s with reports := rest }) (.of_reports rfl rfl rfl ?_) (within_refuseMarked _))
    rw [hreports, List.length_cons]
    dsimp only
    omega
  | arrival unit hroom => exact h.within (within_joinQueue hroom _)
  | departure tag hroom => exact h.within (within_joinQueue hroom _)
  | withdrawn tag => exact h.within (.of_intake List.eraseP_sublist.length_le)
  | parked im r it =>
    exact h.within (Within.trans (t := parkRecord r s) (.of_eq rfl rfl rfl rfl)
      ((within_free it.id _).trans ((within_handOn (by simp) _).trans (within_freed im r.lane _))))
  | abandoned im r it =>
    exact h.within ((within_removeRecord im r s).trans
      ((within_free it.id _).trans ((within_handOn (by simp) _).trans (within_freed im r.lane _))))
  | departed im r it =>
    exact h.within ((within_removeRecord im r s).trans
      ((within_free it.id _).trans ((within_handOn (by simp) _).trans (within_freed im r.lane _))))
  | stayed im r it =>
    exact h.within (Within.trans (t := returnRecord r s) (.of_eq rfl rfl rfl rfl)
      ((within_free it.id _).trans ((within_handOn (by simp) _).trans (within_freed im r.lane _))))
  | forcedParked im r =>
    exact h.within ((within_forceOut im r s).trans ((within_releaseHeld _).trans (within_settle _)))
  | forcedUnannounced im r it =>
    exact h.within ((within_cancelSteps im it s).trans ((within_forceOut im r _).trans (within_freed im r.lane _)))
  | window im lo hi =>
    exact h.within (Within.trans (t := replaceWindow lo hi s) (.of_eq rfl rfl rfl rfl)
      ((within_settle _).trans (within_releaseHeld _)))
  | switched im new dflt q => exact h.within (Within.after_eq (within_switchOver im new dflt _) rfl rfl rfl rfl)
  | plans => exact h.within (.of_eq rfl rfl rfl rfl)
  | block q => exact h.within ((within_releaseHeld _).after_eq rfl rfl rfl rfl)
  | panel lowered => exact h.within (within_panelChanged lowered s)
  | restored im lane offset unit => exact h.within ((within_insertRecord im _ s).trans (within_settle _))
  | evaluatedArrival im unit him hdue => exact bounds_applyArrival h im unit (arrivalDue_gateOpen hdue)
  | evaluatedDeparture im r him hdue => exact bounds_applyDeparture h im r (departureDue_gateOpen hdue)
  | waited im tag e => exact h.within (within_waitOver im tag e s)
  | livedOut id tag => exact h.within ((within_setState (by simp) s).trans (within_post rfl _))
  | heartbeat => exact h.within (.of_bus s.bus.summaries_askSummary_le)
  | attempt im n => exact bounds_startAttempt h im n
  | collided => exact h.within (.of_bus (Nat.le_max_left _ _))
  | completed im n rest hqueue => exact bounds_complete h im hqueue
  | line l => exact h.within (.of_bus (Nat.le_max_left _ _))
  | frame im f => exact h.within (Within.trans (t := lineJudged s) (.of_bus (Nat.le_max_left _ _)) (within_takeFrame im f _))
  | silent im p => exact h.within (within_putPeer p _ s)
  | ticked im => exact h.within (Within.after_eq (within_tickBlocks im _) rfl rfl rfl rfl)

/-- Settles O55: the bounds look at neither port nor commands, and every change keeps them. -/
theorem boundsKept : Obligations.BoundsKept :=
  step_keeps (P := BoundsHold) (fun _ _ _ => Iff.rfl) fun _ _ => Changes.keeps_bounds

end Sys2Proof.Machine
end

section
/-! PROOFS. The deck sums are the sums over the PARKED and LEAVING records, and no tag is held twice, after every step (R17, R18, R22).
The tags held after an operation are among those held before, which `TagsWithin` says as a preorder; only a submission and a restored
unit bring a new one. -/

namespace Sys2Proof.Machine

open Sys2Proof.Safety

/-! ### The blocks after a closure, a forced departure and a cancellation -/

theorem closeParked_blocks (im : Image) (r : UnitRecord) (it : Intent) (s : State) :
    (closeParked im r it s).units = s.units.park r ∧ (closeParked im r it s).intents = s.intents.free it.id ∧
      (closeParked im r it s).intake = s.intake.map Entry.release := by
  simp [closeParked, freed_intake]

theorem closeAbandoned_blocks (im : Image) (r : UnitRecord) (it : Intent) (s : State) :
    (closeAbandoned im r it s).units = s.units.remove r.unit.tag ∧ (closeAbandoned im r it s).intents = s.intents.free it.id ∧
      (closeAbandoned im r it s).intake = s.intake.map Entry.release := by
  simp [closeAbandoned, freed_intake]

theorem closeDeparted_blocks (im : Image) (r : UnitRecord) (it : Intent) (s : State) :
    (closeDeparted im r it s).units = s.units.remove r.unit.tag ∧ (closeDeparted im r it s).intents = s.intents.free it.id ∧
      (closeDeparted im r it s).intake = s.intake.map Entry.release := by
  simp [closeDeparted, freed_intake]

theorem closeStayed_blocks (im : Image) (r : UnitRecord) (it : Intent) (s : State) :
    (closeStayed im r it s).units = s.units.putBack r.unit.tag ∧ (closeStayed im r it s).intents = s.intents.free it.id ∧
      (closeStayed im r it s).intake = s.intake.map Entry.release := by
  simp [closeStayed, freed_intake]

theorem forceOut_blocks (im : Image) (r : UnitRecord) (s : State) :
    (forceOut im r s).units = s.units.remove r.unit.tag ∧
      (forceOut im r s).intake = s.intake.eraseP (Entry.departureOf r.unit.tag) := by
  simp [forceOut]

theorem forceParked_blocks (im : Image) (r : UnitRecord) (s : State) :
    (forceParked im r s).units = s.units.remove r.unit.tag ∧
      (forceParked im r s).intake = (s.intake.eraseP (Entry.departureOf r.unit.tag)).map Entry.release := by
  simp [forceParked, forceOut_blocks]

theorem forceUnannounced_blocks (im : Image) (r : UnitRecord) (it : Intent) (s : State) :
    (forceUnannounced im r it s).units = (cancelSteps im it s).units.remove r.unit.tag ∧
      (forceUnannounced im r it s).intents = s.intents.free it.id ∧
      (forceUnannounced im r it s).intake =
        ((cancelSteps im it s).intake.eraseP (Entry.departureOf r.unit.tag)).map Entry.release := by
  simp [forceUnannounced, forceOut_blocks, freed_intake, cancelSteps_intents]

theorem refuseMarked_intake_sublist (s : State) : (refuseMarked s).intake.Sublist s.intake := by
  rcases refuseMarked_cases s with h | ⟨e, -, -, h⟩ <;> rw [h]
  exact List.eraseP_sublist

theorem cancelIntent_blocks (im : Image) (it : Intent) (s : State) :
    (cancelIntent im it s).units = (cancelSteps im it s).units ∧ (cancelIntent im it s).intents = s.intents.free it.id ∧
      (cancelIntent im it s).intake.Sublist ((cancelSteps im it s).intake.map Entry.release) := by
  refine ⟨by simp [cancelIntent], by simp [cancelIntent, cancelSteps_intents], ?_⟩
  rw [← freed_intake im (laneOfTag s it.tag)]
  exact refuseMarked_intake_sublist _

/-! ### Tags held -/

/-- The tags held by unit records and by arrivals that hold one (R22). -/
def heldTags (s : State) : List Tag := s.units.records.map (fun r => r.unit.tag) ++ s.intake.filterMap arrivalTag

theorem tagsDistinct_iff (s : State) : TagsDistinct s ↔ (heldTags s).Nodup := Iff.rfl

/-- Every tag held in `u` was held in `s`, and no more often. -/
def TagsWithin (s u : State) : Prop := (heldTags u).Subperm (heldTags s)

theorem tagsDistinct_within {s u : State} (hs : TagsDistinct s) (h : TagsWithin s u) : TagsDistinct u := by
  obtain ⟨l, hperm, hsublist⟩ := h
  exact hperm.nodup_iff.1 (hs.sublist hsublist)

theorem TagsWithin.trans {s t u : State} (h : TagsWithin s t) (g : TagsWithin t u) : TagsWithin s u :=
  List.Subperm.trans g h

/-- Records and arrivals may leave, and nothing else. -/
theorem TagsWithin.of_sublist {s u : State}
    (hrecords : (u.units.records.map fun r => r.unit.tag).Sublist (s.units.records.map fun r => r.unit.tag))
    (harrivals : (u.intake.filterMap arrivalTag).Sublist (s.intake.filterMap arrivalTag)) : TagsWithin s u :=
  (hrecords.append harrivals).subperm

theorem TagsWithin.of_intake {s u : State} (hunits : u.units.records = s.units.records)
    (harrivals : (u.intake.filterMap arrivalTag).Sublist (s.intake.filterMap arrivalTag)) : TagsWithin s u :=
  .of_sublist (by rw [hunits]) harrivals

theorem arrivalTag_release (e : Entry) : arrivalTag e.release = arrivalTag e := by
  unfold Entry.release
  cases e.state <;> rfl

theorem arrivals_release (l : List Entry) : (l.map Entry.release).filterMap arrivalTag = l.filterMap arrivalTag := by
  simp [List.filterMap_map, arrivalTag_release]

theorem TagsWithin.of_eq {s u : State} (hunits : u.units.records = s.units.records) (hintake : u.intake = s.intake) :
    TagsWithin s u :=
  .of_intake hunits (by rw [hintake])

theorem TagsWithin.of_release {s u : State} (hunits : u.units.records = s.units.records)
    (hintake : u.intake = s.intake.map Entry.release) : TagsWithin s u :=
  .of_intake hunits (by rw [hintake, arrivals_release])

theorem remove_tags_sublist (u : UnitStore) (tag : Tag) :
    ((u.remove tag).records.map fun r => r.unit.tag).Sublist (u.records.map fun r => r.unit.tag) := by
  rw [UnitStore.remove_records]
  exact List.filter_sublist.map _

theorem setState_tags (u : UnitStore) (tag : Tag) (st : RecordState) :
    ((u.setState tag st).records.map fun r => r.unit.tag) = u.records.map fun r => r.unit.tag := by
  simp only [UnitStore.setState_fields, List.map_map]
  exact List.map_congr_left fun r _ => by simp only [Function.comp]; split <;> rfl

theorem park_tags (u : UnitStore) (r : UnitRecord) :
    ((u.park r).records.map fun x => x.unit.tag) = u.records.map fun x => x.unit.tag :=
  setState_tags u r.unit.tag .parked

theorem putBack_tags (u : UnitStore) (tag : Tag) :
    ((u.putBack tag).records.map fun r => r.unit.tag) = u.records.map fun r => r.unit.tag := by
  simp only [UnitStore.putBack_fields, List.map_map]
  exact List.map_congr_left fun r _ => by simp only [Function.comp]; split <;> rfl

/-- R32: the entry of a cancelled placement holds its unit record again; no other tag comes to be held by an entry. -/
theorem arrivals_putBack (p : Entry → Bool) (unit : Option UnitId) (l : List Entry) :
    (updateFirst p (Entry.putBack unit) l).filterMap arrivalTag = l.filterMap arrivalTag ∨
      ∃ u, unit = some u ∧
        ((updateFirst p (Entry.putBack unit) l).filterMap arrivalTag).Perm (u.tag :: l.filterMap arrivalTag) := by
  cases hfind : l.find? p with
  | none => exact .inl (by rw [updateFirst_of_none _ hfind])
  | some e =>
    obtain ⟨before, after, rfl, hupdate⟩ := updateFirst_of_find? (Entry.putBack unit) hfind
    rw [hupdate]
    cases hask : e.ask with
    | arrival v => exact .inl (by simp [arrivalTag, Entry.putBack, hask])
    | departure t => exact .inl (by simp [List.filterMap_cons, arrivalTag, Entry.putBack, hask])
    | placedArrival t =>
      cases unit with
      | none => exact .inl (by simp [List.filterMap_cons, arrivalTag, Entry.putBack, hask])
      | some u => exact .inr ⟨u, rfl, by simp [arrivalTag, Entry.putBack, hask]⟩

theorem tags_perm_of_find {u : UnitStore} {tag : Tag} {r : UnitRecord} (h : u.find tag = some r) :
    (tag :: (u.records.filter fun x => x.unit.tag != tag).map fun x => x.unit.tag).Subperm
      (u.records.map fun x => x.unit.tag) := by
  obtain rfl : r.unit.tag = tag := UnitStore.tag_of_find h
  obtain ⟨before, after, hrecords⟩ := List.append_of_mem (UnitStore.mem_of_find h)
  rw [hrecords]
  simp only [List.filter_append, List.filter_cons, bne_self_eq_false, Bool.false_eq_true, if_false, List.map_append,
    List.map_cons]
  refine List.Subperm.trans ?_ List.perm_middle.symm.subperm
  exact ((List.filter_sublist.map _).append (List.filter_sublist.map _)).cons_cons _ |>.subperm

/-- A cancellation gives a record's tag back to its arrival, or takes no tag at all (R91). -/
theorem tagsWithin_cancelSteps (im : Image) (it : Intent) (s : State) : TagsWithin s (cancelSteps im it s) := by
  have hsame : (cancelSteps im it s).intake.filterMap arrivalTag = s.intake.filterMap arrivalTag →
      TagsWithin s (cancelSteps im it s) := by
    intro h
    refine .of_sublist ?_ (by rw [h])
    rw [cancelSteps_units]
    cases it.dir with
    | place => exact remove_tags_sublist s.units it.tag
    | remove => rw [putBack_tags]
  rcases arrivals_putBack (Entry.isPlacingFor it.id) (unitGivenBack s it) s.intake with h | ⟨u, hunit, hperm⟩
  · exact hsame (by rw [cancelSteps_intake, h])
  · rw [← cancelSteps_intake im] at hperm
    unfold unitGivenBack at hunit
    split at hunit
    case h_2 => cases hunit
    case h_1 hdir =>
      obtain ⟨r, hfind, rfl⟩ := Option.map_eq_some_iff.1 hunit
      rw [UnitStore.tag_of_find hfind] at hperm
      have hrecords : (cancelSteps im it s).units.records = s.units.records.filter fun x => x.unit.tag != it.tag := by
        rw [cancelSteps_units, hdir, UnitStore.remove_records]
      unfold TagsWithin heldTags
      rw [hrecords]
      refine List.Subperm.trans ((hperm.append_left _).trans List.perm_middle).subperm ?_
      exact (List.subperm_append_right _).2 (tags_perm_of_find hfind)

theorem tagsWithin_cancelIntent (im : Image) (it : Intent) (s : State) : TagsWithin s (cancelIntent im it s) := by
  obtain ⟨hunits, -, hintake⟩ := cancelIntent_blocks im it s
  refine (tagsWithin_cancelSteps im it s).trans (.of_intake (by rw [hunits]) ?_)
  rw [← arrivals_release (cancelSteps im it s).intake]
  exact hintake.filterMap _

theorem tagsWithin_enterQuiet (im : Image) (s : State) : TagsWithin s (enterQuiet im s) := by
  have hquieted : TagsWithin s (quieted im s) := .of_eq rfl rfl
  cases hfind : s.intents.open_.find? fun it => it.state == .unannounced with
  | none => rwa [enterQuiet_of_none hfind]
  | some it => rw [enterQuiet_of_some hfind]; exact hquieted.trans (tagsWithin_cancelIntent im it _)

theorem putPeer_intake (before after : Peer) (s : State) :
    (putPeer before after s).intake = s.intake ∨ (putPeer before after s).intake = s.intake.map Entry.release := by
  unfold putPeer
  dsimp only
  split
  · exact .inr (by simp)
  · exact .inl rfl

theorem tagsWithin_putPeer (before after : Peer) (s : State) : TagsWithin s (putPeer before after s) := by
  rcases putPeer_intake before after s with h | h
  · exact .of_eq (by simp) h
  · exact .of_release (by simp) h

theorem tagsWithin_takeFrame (im : Image) (f : Frame) (s : State) : TagsWithin s (takeFrame im f s) := by
  unfold takeFrame
  split
  · split
    · exact tagsWithin_enterQuiet im s
    · exact .of_eq rfl rfl
  · split
    · exact tagsWithin_putPeer _ _ s
    · exact .of_eq (by simp) (by simp)

theorem tagsWithin_startAttempt (im : Image) (n : Notice) (s : State) : TagsWithin s (startAttempt im n s) := by
  unfold startAttempt
  split
  · split
    · split
      · exact .of_eq rfl rfl
      · exact tagsWithin_cancelIntent im _ s
    · exact .of_eq rfl rfl
  all_goals exact .of_eq rfl rfl

theorem tagsWithin_complete (im : Image) (n : Notice) (rest : List Notice) (s : State) : TagsWithin s (complete im n rest s) := by
  unfold complete
  dsimp only
  split
  · split <;> exact .of_eq rfl rfl
  · split
    · split
      · exact .of_intake rfl (List.eraseP_sublist.filterMap _)
      · exact .of_eq rfl rfl
    · exact .of_eq rfl rfl
  all_goals exact .of_eq rfl rfl

theorem tagsWithin_waitOver (im : Image) (tag : Tag) (e : Entry) (s : State) : TagsWithin s (waitOver im tag e s) := by
  unfold waitOver
  split
  · exact .of_intake rfl (List.eraseP_sublist.filterMap _)
  · refine .of_intake rfl ?_
    dsimp only
    rw [updateFirst_filterMap]
    exact fun _ => rfl

/-! ### The evaluator's entry -/

theorem taken_of_arrivalDue {s : State} {unit : UnitId} (h : arrivalDue s = some unit) :
    ∃ e, s.intake.find? Entry.takeable = some e ∧ e.ask = .arrival unit := by
  unfold arrivalDue at h
  split at h
  · split at h
    case h_1 u hask =>
      obtain ⟨e, he, hask⟩ := Option.map_eq_some_iff.1 hask
      cases h
      exact ⟨e, he, hask⟩
    case h_2 => cases h
  · cases h

theorem record_of_departureDue {s : State} {r : UnitRecord} (h : departureDue s = some r) :
    s.units.find r.unit.tag = some r ∧ r.state = .parked := by
  unfold departureDue at h
  split at h
  · split at h
    case h_1 tag _ =>
      obtain ⟨hfind, hstate⟩ := Option.filter_eq_some_iff.1 h
      obtain rfl : r.unit.tag = tag := UnitStore.tag_of_find hfind
      exact ⟨hfind, by simpa using hstate⟩
    case h_2 => cases h
  · cases h

theorem lowestScore_mem {s : State} {im : Image} {cs : List Candidate} {c : Candidate} (h : lowestScore s im cs = some c) :
    c ∈ cs := by
  induction cs generalizing c with
  | nil => cases h
  | cons d rest ih =>
    unfold lowestScore at h
    split at h
    · cases h; exact List.mem_cons_self
    · split at h
      · cases h; exact List.mem_cons_self
      · cases h; exact List.mem_cons_of_mem _ (ih ‹_›)

/-- A lane chosen is the deck's candidate there, and passes every check (R54, R55). -/
theorem outcomeOf_place {s : State} {im : Image} {unit : UnitId} {c : Candidate} (h : outcomeOf s im unit = .place c) :
    c ∈ candidates s im unit ∧ reached s im c = none := by
  unfold outcomeOf at h
  dsimp only at h
  have hpassing : c ∈ (candidates s im unit).filter fun c => (reached s im c).isNone := by
    split at h
    case h_1 hfind => cases h; exact List.mem_of_find?_eq_some hfind
    case h_2 =>
      split at h
      case h_1 hlowest => cases h; exact lowestScore_mem hlowest
      case h_2 =>
        unfold failOutcome at h
        dsimp only at h
        split at h <;> cases h
  simpa using hpassing

theorem mem_candidates_iff (s : State) (im : Image) (unit : UnitId) (c : Candidate) :
    c ∈ candidates s im unit ↔ ∃ lane < im.laneCount, c = candidateFor s im unit lane := by
  simp [candidates, eq_comm]

theorem unit_of_outcomeOf {s : State} {im : Image} {unit : UnitId} {c : Candidate} (h : outcomeOf s im unit = .place c) :
    c.unit = unit := by
  obtain ⟨lane, -, rfl⟩ := (mem_candidates_iff s im unit c).1 (outcomeOf_place h).1
  rfl

/-- The blocks after a placement (R58, R90). -/
theorem applyPlace_blocks (im : Image) (c : Candidate) (s : State) :
    (applyPlace im c s).units = s.units.insert c.record ∧
      (applyPlace im c s).intents =
        ⟨s.intents.open_ ++ [⟨s.intents.nextId, .place, c.unit.tag, c.contrib, .unannounced⟩], s.intents.nextId⟩ ∧
      (applyPlace im c s).intake =
        updateFirst Entry.takeable (fun e => { e with ask := .placedArrival c.unit.tag, state := .placing s.intents.nextId })
          s.intake := by
  simp [applyPlace]

/-- The blocks after a departure is opened (R63, R90). -/
theorem applyRemove_blocks (r : UnitRecord) (s : State) :
    (applyRemove r s).units = s.units.setState r.unit.tag .leaving ∧
      (applyRemove r s).intents =
        ⟨s.intents.open_ ++ [⟨s.intents.nextId, .remove, r.unit.tag, r.contrib.neg, .unannounced⟩], s.intents.nextId⟩ ∧
      (applyRemove r s).intake =
        updateFirst Entry.takeable (fun e => { e with state := .placing s.intents.nextId }) s.intake := by
  simp [applyRemove]

/-- A placement moves the arrival's tag to its record (R22). -/
theorem tagsWithin_applyArrival {s : State} (im : Image) {unit : UnitId} (hdue : arrivalDue s = some unit) :
    TagsWithin s (applyArrival im unit s) := by
  obtain ⟨e, hfind, hask⟩ := taken_of_arrivalDue hdue
  unfold applyArrival
  split
  case h_1 c hplace =>
    obtain rfl : c.unit = unit := unit_of_outcomeOf hplace
    obtain ⟨hunits, -, hintake⟩ := applyPlace_blocks im c s
    obtain ⟨before, after, hbefore, hupdate⟩ :=
      updateFirst_of_find? (fun e : Entry => { e with ask := .placedArrival c.unit.tag, state := .placing s.intents.nextId }) hfind
    unfold TagsWithin heldTags
    rw [hunits, hintake, hupdate, hbefore]
    refine List.Perm.subperm ?_
    simp only [List.filterMap_append, List.filterMap_cons, arrivalTag, hask, Candidate.record, UnitStore.insert_fields,
      List.map_append, List.map_cons, List.map_nil, List.append_assoc, List.singleton_append]
    exact List.perm_middle.symm.append_left _
  case h_2 =>
    refine .of_intake rfl ?_
    rw [show (updateTaken _ s).intake = updateFirst _ _ s.intake from rfl, updateFirst_filterMap]
    exact fun _ => rfl
  case h_3 => exact .of_intake rfl (List.eraseP_sublist.filterMap _)

theorem tagsWithin_updateState {s u : State} {f : Entry → Entry} (hf : ∀ e, arrivalTag (f e) = arrivalTag e)
    (hunits : (u.units.records.map fun r => r.unit.tag) = s.units.records.map fun r => r.unit.tag)
    (hintake : u.intake = updateFirst Entry.takeable f s.intake) : TagsWithin s u :=
  .of_sublist (by rw [hunits]) (by rw [hintake, updateFirst_filterMap _ _ hf])

theorem tagsWithin_applyDeparture (s : State) (im : Image) (r : UnitRecord) : TagsWithin s (applyDeparture im r s) := by
  unfold applyDeparture
  split_ifs
  · exact .of_intake rfl (List.eraseP_sublist.filterMap _)
  · exact tagsWithin_updateState (f := fun e => { e with state := .held .laneState }) (fun _ => rfl) rfl rfl
  · exact tagsWithin_updateState (f := fun e => { e with state := .held .shipLimits }) (fun _ => rfl) rfl rfl
  · obtain ⟨hunits, -, hintake⟩ := applyRemove_blocks r s
    exact tagsWithin_updateState (f := fun e => { e with state := .placing s.intents.nextId }) (fun _ => rfl)
      (by rw [hunits, setState_tags]) hintake

/-! ### Tags that come new -/

/-- R22: a tag is free where no record and no entry has it. -/
theorem not_mem_heldTags {s : State} {tag : Tag} (h : tagHeld s tag = false) : tag ∉ heldTags s := by
  have hfree : ¬ TagHeld s tag := fun hheld => by rw [(tagHeld_iff s tag).2 hheld] at h; cases h
  simp only [TagHeld, not_or, not_exists, not_and] at hfree
  obtain ⟨hrecords, hentries⟩ := hfree
  simp only [heldTags, List.mem_append, List.mem_map, List.mem_filterMap, not_or, not_exists, not_and]
  refine ⟨hrecords, fun e he htag => hentries e he ?_⟩
  unfold arrivalTag at htag
  unfold Entry.tag
  split at htag
  case h_1 u hask => simpa [hask] using htag
  all_goals cases htag

theorem tagsDistinct_of_new {s u : State} {tag : Tag} (hs : TagsDistinct s) (htag : tagHeld s tag = false)
    (hperm : (heldTags u).Perm (tag :: heldTags s)) : TagsDistinct u :=
  hperm.nodup_iff.2 (List.nodup_cons.2 ⟨not_mem_heldTags htag, hs⟩)

theorem tagsDistinct_resetAll (s : State) : TagsDistinct (resetAll s) := List.nodup_nil

/-- Every change keeps the tags distinct (R22). -/
theorem Changes.keeps_tags {s u : State} (h : TagsDistinct s) (hu : Changes s u) : TagsDistinct u := by
  cases hu with
  | same => exact h
  | reset => exact tagsDistinct_resetAll s
  | restart => exact tagsDistinct_resetAll s
  | left => exact h
  | control => exact h
  | loaded => exact tagsDistinct_within h (.of_eq (by simp) (by simp))
  | listened =>
    unfold listenOver
    dsimp only
    split
    · exact h
    · exact tagsDistinct_within h (.of_release rfl rfl)
  | joined => exact tagsDistinct_within h (.of_release rfl rfl)
  | reportRead r rest =>
    exact tagsDistinct_within h (.of_intake (by simp) ((refuseMarked_intake_sublist _).filterMap _))
  | arrival unit hroom htag =>
    refine tagsDistinct_of_new h htag ?_
    simp only [heldTags, joinQueue_fields, List.filterMap_append]
    exact (List.append_assoc _ _ _ ▸ List.perm_append_singleton unit.tag _)
  | departure tag => exact tagsDistinct_within h (.of_intake rfl (by simp [arrivalTag]))
  | withdrawn tag => exact tagsDistinct_within h (.of_intake rfl (List.eraseP_sublist.filterMap _))
  | parked im r it =>
    obtain ⟨hunits, -, hintake⟩ := closeParked_blocks im r it s
    exact tagsDistinct_within h (.of_sublist (by rw [hunits, park_tags]) (by rw [hintake, arrivals_release]))
  | abandoned im r it =>
    obtain ⟨hunits, -, hintake⟩ := closeAbandoned_blocks im r it s
    exact tagsDistinct_within h (.of_sublist (by rw [hunits]; exact remove_tags_sublist _ _)
      (by rw [hintake, arrivals_release]))
  | departed im r it =>
    obtain ⟨hunits, -, hintake⟩ := closeDeparted_blocks im r it s
    exact tagsDistinct_within h (.of_sublist (by rw [hunits]; exact remove_tags_sublist _ _)
      (by rw [hintake, arrivals_release]))
  | stayed im r it =>
    obtain ⟨hunits, -, hintake⟩ := closeStayed_blocks im r it s
    exact tagsDistinct_within h (.of_sublist (by rw [hunits, putBack_tags]) (by rw [hintake, arrivals_release]))
  | forcedParked im r =>
    obtain ⟨hunits, hintake⟩ := forceParked_blocks im r s
    exact tagsDistinct_within h (.of_sublist (by rw [hunits]; exact remove_tags_sublist _ _)
      (by rw [hintake, arrivals_release]; exact List.eraseP_sublist.filterMap _))
  | forcedUnannounced im r it =>
    obtain ⟨hunits, -, hintake⟩ := forceUnannounced_blocks im r it s
    exact tagsDistinct_within h ((tagsWithin_cancelSteps im it s).trans
      (.of_sublist (by rw [hunits]; exact remove_tags_sublist _ _)
        (by rw [hintake, arrivals_release]; exact List.eraseP_sublist.filterMap _)))
  | window => exact tagsDistinct_within h (.of_release (by simp) (by simp [putWindow]))
  | switched => exact tagsDistinct_within h (.of_release (by simp) (by simp [switchOver]))
  | plans => exact h
  | block => exact tagsDistinct_within h (.of_release rfl rfl)
  | panel lowered =>
    refine tagsDistinct_within h (.of_release ?_ ?_) <;> simp only [panelChanged, releaseHeld_fields] <;> split <;> simp
  | restored im lane offset unit him htag =>
    refine tagsDistinct_of_new h htag ?_
    simp only [heldTags, settle_frame, insertRecord_units, insertRecord_frame, UnitStore.insert_fields, List.map_append,
      List.map_cons, List.map_nil, List.append_assoc, List.singleton_append]
    exact List.perm_middle
  | evaluatedArrival im unit him hdue => exact tagsDistinct_within h (tagsWithin_applyArrival im hdue)
  | evaluatedDeparture im r => exact tagsDistinct_within h (tagsWithin_applyDeparture s im r)
  | waited im tag e => exact tagsDistinct_within h (tagsWithin_waitOver im tag e s)
  | livedOut => exact h
  | heartbeat => exact h
  | attempt im n => exact tagsDistinct_within h (tagsWithin_startAttempt im n s)
  | collided => exact h
  | completed im n rest => exact tagsDistinct_within h (tagsWithin_complete im n rest s)
  | line => exact h
  | frame im f => exact tagsDistinct_within h (tagsWithin_takeFrame im f _)
  | silent im p => exact tagsDistinct_within h (tagsWithin_putPeer p _ s)
  | ticked im =>
    refine tagsDistinct_within h (.of_intake rfl ?_)
    have htick : ∀ e, arrivalTag (Entry.tick im.waitMs e) = arrivalTag e := by
      intro e
      unfold Entry.tick
      split <;> rfl
    simp [tickBlocks, List.filterMap_map, htick]

end Sys2Proof.Machine
end

section
/-! PROOFS. The deck sums are the sums over the PARKED and LEAVING records after every step (R17, R18). Each operation of the unit
store keeps them so, and no other operation touches the store. -/

namespace Sys2Proof

theorem Quad.add_zero (a : Quad) : a.add Quad.zero = a := by
  simp [Quad.add, Quad.zero]

theorem Quad.zero_add (a : Quad) : Quad.zero.add a = a := by
  simp [Quad.add, Quad.zero]

theorem Quad.add_comm (a b : Quad) : a.add b = b.add a := by
  simp [Quad.add, Int.add_comm]

theorem Quad.add_assoc (a b c : Quad) : (a.add b).add c = a.add (b.add c) := by
  simp [Quad.add, Int.add_assoc]

theorem Quad.add_neg_cancel (a b : Quad) : (a.add b).add a.neg = b := by
  obtain ⟨m, t, l, v⟩ := a
  simp only [Quad.add, Quad.neg]
  congr 1 <;> omega

theorem Quad.sum_perm {a b : List Quad} (h : a.Perm b) : Quad.sum a = Quad.sum b := by
  induction h with
  | nil => rfl
  | cons q _ ih => simp only [Quad.sum, ih]
  | swap p q l => simp only [Quad.sum, ← Quad.add_assoc, Quad.add_comm p q]
  | trans _ _ ih ih' => exact ih.trans ih'

end Sys2Proof

namespace Sys2Proof.Machine

open Sys2Proof.Safety

/-! ### The sum over the records that count -/

theorem countedSum_perm {a b : List UnitRecord} (h : a.Perm b) : countedSum a = countedSum b :=
  Quad.sum_perm ((h.filter _).map _)

theorem countedSum_cons (r : UnitRecord) (l : List UnitRecord) :
    countedSum (r :: l) = if r.counts then r.contrib.add (countedSum l) else countedSum l := by
  unfold countedSum
  cases h : r.counts <;> simp [h, Quad.sum]

theorem countedSum_append (l : List UnitRecord) (r : UnitRecord) :
    countedSum (l ++ [r]) = if r.counts then (countedSum l).add r.contrib else countedSum l := by
  rw [countedSum_perm (List.perm_append_singleton r l), countedSum_cons, Quad.add_comm]

/-- A change of records that leaves what counts and how much. -/
theorem countedSum_map {f : UnitRecord → UnitRecord} {l : List UnitRecord} (hcounts : ∀ r ∈ l, (f r).counts = r.counts)
    (hcontrib : ∀ r ∈ l, (f r).contrib = r.contrib) : countedSum (l.map f) = countedSum l := by
  induction l with
  | nil => rfl
  | cons r l ih =>
    rw [List.map_cons, countedSum_cons, countedSum_cons, hcounts r (by simp), hcontrib r (by simp),
      ih (fun x hx => hcounts x (by simp [hx])) (fun x hx => hcontrib x (by simp [hx]))]

/-! ### A record among records with distinct tags -/

/-- No two records have a tag in common. -/
def UnitStore.TagsNodup (u : UnitStore) : Prop := (u.records.map fun r => r.unit.tag).Nodup

theorem UnitStore.tagsNodup_of_distinct {s : State} (h : TagsDistinct s) : s.units.TagsNodup :=
  (List.nodup_append.1 h).1

theorem UnitStore.eq_of_tag {u : UnitStore} (h : u.TagsNodup) {a b : UnitRecord} (ha : a ∈ u.records) (hb : b ∈ u.records)
    (htag : a.unit.tag = b.unit.tag) : a = b :=
  List.inj_on_of_nodup_map h ha hb htag

theorem UnitStore.find_eq_some_iff {u : UnitStore} (h : u.TagsNodup) (tag : Tag) (r : UnitRecord) :
    u.find tag = some r ↔ r ∈ u.records ∧ r.unit.tag = tag := by
  refine ⟨fun hfind => ⟨UnitStore.mem_of_find hfind, UnitStore.tag_of_find hfind⟩, ?_⟩
  rintro ⟨hmem, rfl⟩
  cases hfind : u.find r.unit.tag with
  | none =>
    simp only [UnitStore.find, List.find?_eq_none] at hfind
    exact absurd (beq_self_eq_true _) (hfind r hmem)
  | some x =>
    rw [UnitStore.eq_of_tag h (UnitStore.mem_of_find hfind) hmem (UnitStore.tag_of_find hfind)]

/-- The records are the one found and the others. -/
theorem UnitStore.perm_of_find {u : UnitStore} (h : u.TagsNodup) {tag : Tag} {r : UnitRecord} (hfind : u.find tag = some r) :
    u.records.Perm (r :: u.records.filter fun x => x.unit.tag != tag) := by
  obtain rfl : r.unit.tag = tag := UnitStore.tag_of_find hfind
  obtain ⟨before, after, hrecords⟩ := List.append_of_mem (UnitStore.mem_of_find hfind)
  unfold UnitStore.TagsNodup at h
  rw [hrecords, (List.perm_middle.map _).nodup_iff, List.map_cons, List.nodup_cons] at h
  have hothers : ∀ x ∈ before ++ after, (x.unit.tag != r.unit.tag) = true := by
    intro x hx
    simp only [bne_iff_ne]
    exact fun e => h.1 (e ▸ List.mem_map_of_mem hx)
  rw [hrecords, List.filter_append, List.filter_cons, if_neg (by simp), ← List.filter_append, List.filter_eq_self.2 hothers]
  exact List.perm_middle

/-- Changing the record found leaves the others as they are. -/
theorem UnitStore.map_perm_of_find {u : UnitStore} (h : u.TagsNodup) {tag : Tag} {r : UnitRecord} (hfind : u.find tag = some r)
    (f : UnitRecord → UnitRecord) (hf : ∀ x, x.unit.tag ≠ tag → f x = x) :
    (u.records.map f).Perm (f r :: u.records.filter fun x => x.unit.tag != tag) := by
  refine ((UnitStore.perm_of_find h hfind).map f).trans (List.Perm.of_eq ?_)
  rw [List.map_cons, List.map_congr_left (g := id) fun x hx => hf x (by simpa using (List.mem_filter.1 hx).2), List.map_id]

/-! ### The operations of the unit store -/

/-- R17: the deck sums are the sums over the records that count. -/
def UnitStore.SumsExact (u : UnitStore) : Prop := u.sums = countedSum u.records

theorem UnitStore.SumsExact.insert {u : UnitStore} (h : u.SumsExact) (r : UnitRecord) : (u.insert r).SumsExact := by
  unfold UnitStore.SumsExact at h ⊢
  rw [UnitStore.insert_fields u r |>.2.1, UnitStore.insert_fields u r |>.2.2, countedSum_append, h]

theorem UnitStore.SumsExact.remove {u : UnitStore} (h : u.SumsExact) (hnodup : u.TagsNodup) (tag : Tag) :
    (u.remove tag).SumsExact := by
  unfold UnitStore.SumsExact at h ⊢
  cases hfind : u.find tag with
  | none => simpa [UnitStore.remove, hfind] using h
  | some r =>
    have hsum := countedSum_perm (UnitStore.perm_of_find hnodup hfind)
    rw [countedSum_cons] at hsum
    rw [UnitStore.remove_of_find hfind, h, hsum]
    cases r.counts
    · rfl
    · exact Quad.add_neg_cancel _ _

/-- LEAVING and PARKED count alike (R17). -/
theorem UnitStore.SumsExact.putBack {u : UnitStore} (h : u.SumsExact) (tag : Tag) : (u.putBack tag).SumsExact := by
  unfold UnitStore.SumsExact at h ⊢
  rw [UnitStore.putBack_fields u tag |>.2.1, UnitStore.putBack_fields u tag |>.2.2, h]
  refine (countedSum_map (fun r _ => ?_) fun r _ => ?_).symm
  · split
    case isTrue hleaving =>
      simp only [Bool.and_eq_true, beq_iff_eq] at hleaving
      simp only [UnitRecord.counts, hleaving.2]
      rfl
    case isFalse => rfl
  · split <;> rfl

theorem UnitStore.setState_perm {u : UnitStore} (hnodup : u.TagsNodup) {r : UnitRecord} (hfind : u.find r.unit.tag = some r)
    (st : RecordState) : (u.setState r.unit.tag st).records.Perm
      ({ r with state := st } :: u.records.filter fun x => x.unit.tag != r.unit.tag) := by
  have hperm := UnitStore.map_perm_of_find hnodup hfind (fun x => if x.unit.tag == r.unit.tag then { x with state := st } else x)
    fun x hx => if_neg (by simpa using hx)
  simpa using hperm

theorem UnitStore.SumsExact.leave {u : UnitStore} (h : u.SumsExact) (hnodup : u.TagsNodup) {r : UnitRecord}
    (hfind : u.find r.unit.tag = some r) (hstate : r.state = .parked) : (u.setState r.unit.tag .leaving).SumsExact := by
  unfold UnitStore.SumsExact at h ⊢
  have hbefore := countedSum_perm (UnitStore.perm_of_find hnodup hfind)
  have hafter := countedSum_perm (UnitStore.setState_perm hnodup hfind .leaving)
  rw [countedSum_cons, UnitRecord.counts, hstate] at hbefore
  rw [countedSum_cons] at hafter
  rw [hafter, UnitStore.setState_fields u r.unit.tag .leaving |>.2.1, h, hbefore]
  rfl

theorem UnitStore.SumsExact.park {u : UnitStore} (h : u.SumsExact) (hnodup : u.TagsNodup) {r : UnitRecord}
    (hfind : u.find r.unit.tag = some r) (hstate : r.state = .pending) : (u.park r).SumsExact := by
  unfold UnitStore.SumsExact at h ⊢
  have hbefore := countedSum_perm (UnitStore.perm_of_find hnodup hfind)
  have hafter := countedSum_perm (UnitStore.setState_perm hnodup hfind .parked)
  rw [countedSum_cons, UnitRecord.counts, hstate] at hbefore
  rw [countedSum_cons] at hafter
  rw [UnitStore.park_fields u r |>.2.1, UnitStore.park_fields u r |>.2.2, hafter, h, hbefore, Quad.add_comm]
  rfl

theorem cancelSteps_sumsExact {s : State} (h : s.units.SumsExact) (hnodup : s.units.TagsNodup) (im : Image) (it : Intent) :
    (cancelSteps im it s).units.SumsExact := by
  rw [cancelSteps_units]
  cases it.dir with
  | place => exact h.remove hnodup it.tag
  | remove => exact h.putBack it.tag

theorem cancelIntent_sumsExact {s : State} (h : s.units.SumsExact) (hnodup : s.units.TagsNodup) (im : Image) (it : Intent) :
    (cancelIntent im it s).units.SumsExact := by
  rw [(cancelIntent_blocks im it s).1]
  exact cancelSteps_sumsExact h hnodup im it

theorem takeFrame_sumsExact {s : State} (h : s.units.SumsExact) (hnodup : s.units.TagsNodup) (im : Image) (f : Frame) :
    (takeFrame im f s).units.SumsExact := by
  unfold takeFrame
  split
  · split
    · cases hfind : s.intents.open_.find? fun it => it.state == .unannounced with
      | none => rw [enterQuiet_of_none hfind]; exact h
      | some it => rw [enterQuiet_of_some hfind]; exact cancelIntent_sumsExact (s := quieted im s) h hnodup im it
    · exact h
  · split
    · rw [show (putPeer _ _ s).units = s.units by simp]; exact h
    · rw [show (takeStray _ s).units = s.units by simp]; exact h

theorem startAttempt_sumsExact {s : State} (h : s.units.SumsExact) (hnodup : s.units.TagsNodup) (im : Image) (n : Notice) :
    (startAttempt im n s).units.SumsExact := by
  unfold startAttempt
  split
  · split
    · split
      · exact h
      · exact cancelIntent_sumsExact h hnodup im _
    · exact h
  all_goals exact h

theorem applyArrival_sumsExact {s : State} (h : s.units.SumsExact) (im : Image) (unit : UnitId) :
    (applyArrival im unit s).units.SumsExact := by
  unfold applyArrival
  split
  case h_1 c _ => rw [(applyPlace_blocks im c s).1]; exact h.insert c.record
  all_goals exact h

theorem applyDeparture_sumsExact {s : State} (h : s.units.SumsExact) (hnodup : s.units.TagsNodup) (im : Image) {r : UnitRecord}
    (hdue : departureDue s = some r) : (applyDeparture im r s).units.SumsExact := by
  obtain ⟨hfind, hstate⟩ := record_of_departureDue hdue
  unfold applyDeparture
  split_ifs
  · exact h
  · exact h
  · exact h
  · rw [(applyRemove_blocks r s).1]
    exact h.leave hnodup hfind hstate

/-- Every change keeps the deck sums exact (R17, R18). -/
theorem Changes.keeps_sums {s u : State} (h : s.units.SumsExact) (hnodup : s.units.TagsNodup) (hu : Changes s u) :
    u.units.SumsExact := by
  cases hu with
  | same => exact h
  | reset => exact (rfl : Quad.zero = Quad.zero)
  | restart => exact (rfl : Quad.zero = Quad.zero)
  | left => exact h
  | control => exact h
  | loaded => simpa using h
  | listened => simpa using h
  | joined => exact h
  | reportRead => simpa using h
  | arrival => exact h
  | departure => exact h
  | withdrawn => exact h
  | parked im r it hcloses =>
    rw [(closeParked_blocks im r it s).1]
    exact h.park hnodup hcloses.record hcloses.state
  | abandoned im r it => rw [(closeAbandoned_blocks im r it s).1]; exact h.remove hnodup _
  | departed im r it => rw [(closeDeparted_blocks im r it s).1]; exact h.remove hnodup _
  | stayed im r it => rw [(closeStayed_blocks im r it s).1]; exact h.putBack _
  | forcedParked im r => rw [(forceParked_blocks im r s).1]; exact h.remove hnodup _
  | forcedUnannounced im r it =>
    rw [(forceUnannounced_blocks im r it s).1]
    refine (cancelSteps_sumsExact h hnodup im it).remove ?_ _
    rw [UnitStore.TagsNodup, cancelSteps_units]
    cases it.dir with
    | place => exact hnodup.sublist (remove_tags_sublist s.units it.tag)
    | remove => rw [putBack_tags]; exact hnodup
  | window => simpa using h
  | switched => simpa using h
  | plans => exact h
  | block => exact h
  | panel lowered =>
    simp only [panelChanged]
    split <;> simpa [UnitStore.SumsExact] using h
  | restored => simpa using h.insert _
  | evaluatedArrival im unit => exact applyArrival_sumsExact h im unit
  | evaluatedDeparture im r him hdue => exact applyDeparture_sumsExact h hnodup im hdue
  | waited => simpa using h
  | livedOut => exact h
  | heartbeat => exact h
  | attempt im n => exact startAttempt_sumsExact h hnodup im n
  | collided => exact h
  | completed => simpa using h
  | line => exact h
  | frame im f => exact takeFrame_sumsExact (s := lineJudged s) h hnodup im f
  | silent => simpa using h
  | ticked => exact h

/-- Settles O56: tags and sums together are kept by every change. -/
theorem deckSumsKept : Obligations.DeckSumsKept := by
  refine step_keeps (P := DeckSumsAgree) (fun _ _ _ => Iff.rfl) fun s u h hu => ?_
  obtain ⟨htags, hsums⟩ := h
  exact ⟨hu.keeps_tags htags, hu.keeps_sums hsums (UnitStore.tagsNodup_of_distinct htags)⟩

end Sys2Proof.Machine
end

section
/-! PROOFS. Intents and records stay matched (R87, R88): each open intent has its one record, PENDING or LEAVING, and each such record
its one intent, after every step; and the id of the next intent is free (R89). -/

namespace Sys2Proof.Machine

open Sys2Proof.Safety

/-! ### The next id (R89) -/

theorem IntentId.val_succ (i : IntentId) : (i + 1).val = (i.val + 1) % 16 := by
  rw [Fin.val_add, Fin.val_one]

/-- Counting up from `i`: every id passed over is taken, and the one reached is free unless as many were tried as may be. -/
theorem firstFree_spec (taken : List IntentId) (n : Nat) (i : IntentId) :
    ∃ k ≤ n, (firstFree taken n i).val = (i.val + k) % 16 ∧ (∀ j < k, ∃ x ∈ taken, x.val = (i.val + j) % 16) ∧
      (k < n → firstFree taken n i ∉ taken) := by
  have hi16 : i.val % 16 = i.val := Nat.mod_eq_of_lt i.isLt
  induction n generalizing i with
  | zero => exact ⟨0, Nat.le_refl 0, by simpa [firstFree] using hi16.symm, by simp, by simp⟩
  | succ n ih =>
    unfold firstFree
    by_cases hi : i ∈ taken
    · obtain ⟨k, hk, hreached, hpassed, hfree⟩ := ih (i + 1) (Nat.mod_eq_of_lt (i + 1).isLt)
      rw [IntentId.val_succ] at hreached hpassed
      rw [if_pos (by simpa using hi)]
      refine ⟨k + 1, by omega, by omega, fun j hj => ?_, fun h => hfree (by omega)⟩
      cases j with
      | zero => exact ⟨i, hi, hi16.symm⟩
      | succ j =>
        obtain ⟨x, hx, hval⟩ := hpassed j (by omega)
        exact ⟨x, hx, by omega⟩
    · rw [if_neg (by simpa using hi)]
      exact ⟨0, by omega, hi16.symm, by simp, fun _ => hi⟩

/-- Sixteen ids in a row are all the ids there are. -/
theorem sixteen_le_length {taken : List IntentId} {i : Nat} (h : ∀ j < 16, ∃ x ∈ taken, x.val = (i + j) % 16) :
    16 ≤ taken.length := by
  have hall : ∀ y : IntentId, y ∈ taken.toFinset := by
    intro y
    obtain ⟨x, hx, hval⟩ := h ((y.val + 16 - i % 16) % 16) (Nat.mod_lt _ (by omega))
    have : x = y := Fin.ext (by omega)
    simpa [← this] using hx
  calc 16 = (Finset.univ : Finset IntentId).card := by simp
    _ ≤ taken.toFinset.card := Finset.card_le_card fun x _ => hall x
    _ ≤ taken.length := taken.toFinset_card_le

theorem IntentTable.nextId_spec {t : IntentTable} (h : t.open_.length < 16) :
    ∃ k < 16, t.nextId.val = (t.counter.val + 1 + k) % 16 ∧
      (∀ j < k, ∃ x ∈ t.open_.map Intent.id, x.val = (t.counter.val + 1 + j) % 16) ∧ t.nextId ∉ t.open_.map Intent.id := by
  obtain ⟨k, hk, hreached, hpassed, hfree⟩ := firstFree_spec (t.open_.map Intent.id) 16 (t.counter + 1)
  have hlt : k < 16 := by
    refine lt_of_le_of_ne hk fun e => ?_
    have := sixteen_le_length (e ▸ hpassed)
    simp at this
    omega
  rw [IntentId.val_succ] at hreached hpassed
  refine ⟨k, hlt, by rw [IntentTable.nextId, hreached, Nat.mod_add_mod], fun j hj => ?_, hfree hlt⟩
  obtain ⟨x, hx, hval⟩ := hpassed j hj
  exact ⟨x, hx, by rw [hval, Nat.mod_add_mod]⟩

/-- Settles O36, from what counting up to a free id does. -/
theorem nextIntentIdFree : Obligations.NextIntentIdFree := by
  intro t hlength
  obtain ⟨k, hk, hreached, hpassed, hfree⟩ := IntentTable.nextId_spec hlength
  refine ⟨fun it hit e => hfree (List.mem_map.2 ⟨it, hit, e⟩), k, hk, hreached, fun j hj => ?_⟩
  obtain ⟨x, hx, hval⟩ := hpassed j hj
  obtain ⟨it, hit, rfl⟩ := List.mem_map.1 hx
  exact ⟨it, hit, hval⟩

/-! ### Intents and records matched -/

/-- An intent belongs to a record, in the state and with the deltas of its direction (R87). -/
def Intent.BelongsTo (it : Intent) (r : UnitRecord) : Prop :=
  r.unit.tag = it.tag ∧
    match it.dir with
    | .place => r.state = .pending ∧ it.delta = r.contrib
    | .remove => r.state = .leaving ∧ it.delta = r.contrib.neg

/-- R88 of the open intents and the records. -/
structure Matched (opened : List Intent) (records : List UnitRecord) : Prop where
  ids : (opened.map Intent.id).Nodup
  tags : (opened.map Intent.tag).Nodup
  record : ∀ it ∈ opened, ∃ r ∈ records, it.BelongsTo r
  intent : ∀ r ∈ records, r.state ≠ .parked → ∃ it ∈ opened, it.tag = r.unit.tag

theorem intentsMatchRecords_iff (s : State) : IntentsMatchRecords s ↔ Matched s.intents.open_ s.units.records :=
  ⟨fun ⟨hids, htags, hrecord, hintent⟩ => ⟨hids, htags, hrecord, hintent⟩,
    fun ⟨hids, htags, hrecord, hintent⟩ => ⟨hids, htags, hrecord, hintent⟩⟩

theorem Intent.BelongsTo.state_ne_parked {it : Intent} {r : UnitRecord} (h : it.BelongsTo r) : r.state ≠ .parked := by
  obtain ⟨-, hdir⟩ := h
  cases hd : it.dir <;> simp only [hd] at hdir <;> simp [hdir.1]

theorem Matched.eq_of_tag {opened : List Intent} {records : List UnitRecord} (h : Matched opened records) {a b : Intent}
    (ha : a ∈ opened) (hb : b ∈ opened) (htag : a.tag = b.tag) : a = b :=
  List.inj_on_of_nodup_map h.tags ha hb htag

theorem Matched.eq_of_id {opened : List Intent} {records : List UnitRecord} (h : Matched opened records) {a b : Intent}
    (ha : a ∈ opened) (hb : b ∈ opened) (hid : a.id = b.id) : a = b :=
  List.inj_on_of_nodup_map h.ids ha hb hid

/-- An intent is freed while its record leaves, or is PARKED at last, and the other records stay (R91, R96 to R99). -/
theorem Matched.free {opened : List Intent} {records after : List UnitRecord} (h : Matched opened records) {it : Intent}
    (hit : it ∈ opened) (hkept : ∀ x : UnitRecord, x.unit.tag ≠ it.tag → (x ∈ after ↔ x ∈ records))
    (hdone : ∀ x ∈ after, x.unit.tag = it.tag → x.state = .parked) :
    Matched (opened.filter fun x => x.id != it.id) after where
  ids := h.ids.sublist (List.filter_sublist.map _)
  tags := h.tags.sublist (List.filter_sublist.map _)
  record := by
    intro j hj
    obtain ⟨hj, hid⟩ := List.mem_filter.1 hj
    obtain ⟨r, hr, hbelongs⟩ := h.record j hj
    have htag : r.unit.tag ≠ it.tag := by
      intro e
      have : j = it := h.eq_of_tag hj hit (hbelongs.1.symm.trans e)
      simp [this] at hid
    exact ⟨r, (hkept r htag).2 hr, hbelongs⟩
  intent := by
    intro r hr hstate
    have htag : r.unit.tag ≠ it.tag := fun e => hstate (hdone r hr e)
    obtain ⟨j, hj, hjtag⟩ := h.intent r ((hkept r htag).1 hr) hstate
    refine ⟨j, List.mem_filter.2 ⟨hj, ?_⟩, hjtag⟩
    rw [bne_iff_ne]
    exact fun e => htag (hjtag ▸ h.eq_of_id hj hit e ▸ rfl)

/-- A PARKED record leaves (R100). -/
theorem Matched.drop {opened : List Intent} {records : List UnitRecord} (h : Matched opened records) {tag : Tag}
    (hparked : ∀ x ∈ records, x.unit.tag = tag → x.state = .parked) :
    Matched opened (records.filter fun x => x.unit.tag != tag) where
  ids := h.ids
  tags := h.tags
  record := by
    intro it hit
    obtain ⟨r, hr, hbelongs⟩ := h.record it hit
    refine ⟨r, List.mem_filter.2 ⟨hr, ?_⟩, hbelongs⟩
    rw [bne_iff_ne]
    exact fun e => hbelongs.state_ne_parked (hparked r hr e)
  intent := fun r hr hstate => h.intent r (List.mem_of_mem_filter hr) hstate

/-- A PARKED record joins (R178). -/
theorem Matched.add {opened : List Intent} {records : List UnitRecord} (h : Matched opened records) {x : UnitRecord}
    (hparked : x.state = .parked) : Matched opened (records ++ [x]) where
  ids := h.ids
  tags := h.tags
  record := by
    intro it hit
    obtain ⟨r, hr, hbelongs⟩ := h.record it hit
    exact ⟨r, List.mem_append_left _ hr, hbelongs⟩
  intent := by
    intro r hr hstate
    rcases List.mem_append.1 hr with hr | hr
    · exact h.intent r hr hstate
    · obtain rfl := List.mem_singleton.1 hr
      exact absurd hparked hstate

theorem nodup_map_append_singleton {α β : Type} {f : α → β} {l : List α} {a : α} (h : (l.map f).Nodup) (ha : f a ∉ l.map f) :
    ((l ++ [a]).map f).Nodup := by
  rw [List.map_append, List.map_singleton, (List.perm_append_singleton _ _).nodup_iff, List.nodup_cons]
  exact ⟨ha, h⟩

/-- A placement opens an intent for its new PENDING record (R58, R90). -/
theorem Matched.openPlace {opened : List Intent} {records : List UnitRecord} (h : Matched opened records) {x : UnitRecord}
    {it : Intent} (hid : it.id ∉ opened.map Intent.id) (hnew : x.unit.tag ∉ records.map fun r => r.unit.tag)
    (hx : it.BelongsTo x) : Matched (opened ++ [it]) (records ++ [x]) where
  ids := nodup_map_append_singleton h.ids hid
  tags := by
    refine nodup_map_append_singleton h.tags fun hmem => hnew ?_
    obtain ⟨j, hj, hjtag⟩ := List.mem_map.1 hmem
    obtain ⟨r, hr, hbelongs⟩ := h.record j hj
    exact List.mem_map.2 ⟨r, hr, by rw [hbelongs.1, hjtag, hx.1]⟩
  record := by
    intro j hj
    rcases List.mem_append.1 hj with hj | hj
    · obtain ⟨r, hr, hbelongs⟩ := h.record j hj
      exact ⟨r, List.mem_append_left _ hr, hbelongs⟩
    · obtain rfl := List.mem_singleton.1 hj
      exact ⟨x, by simp, hx⟩
  intent := by
    intro r hr hstate
    rcases List.mem_append.1 hr with hr | hr
    · obtain ⟨j, hj, hjtag⟩ := h.intent r hr hstate
      exact ⟨j, List.mem_append_left _ hj, hjtag⟩
    · obtain rfl := List.mem_singleton.1 hr
      exact ⟨it, by simp, hx.1.symm⟩

/-- A departure opens an intent for a record that was PARKED (R63, R90). -/
theorem Matched.openRemove {opened : List Intent} {records after : List UnitRecord} (h : Matched opened records) {x : UnitRecord}
    {it : Intent} (hid : it.id ∉ opened.map Intent.id) (hparked : ∀ y ∈ records, y.unit.tag = it.tag → y.state = .parked)
    (hkept : ∀ y : UnitRecord, y.unit.tag ≠ it.tag → (y ∈ after ↔ y ∈ records)) (hmem : x ∈ after)
    (hx : it.BelongsTo x) : Matched (opened ++ [it]) after where
  ids := nodup_map_append_singleton h.ids hid
  tags := by
    refine nodup_map_append_singleton h.tags fun hmem => ?_
    obtain ⟨j, hj, hjtag⟩ := List.mem_map.1 hmem
    obtain ⟨r, hr, hbelongs⟩ := h.record j hj
    exact hbelongs.state_ne_parked (hparked r hr (hbelongs.1.trans hjtag))
  record := by
    intro j hj
    rcases List.mem_append.1 hj with hj | hj
    · obtain ⟨r, hr, hbelongs⟩ := h.record j hj
      have htag : r.unit.tag ≠ it.tag := fun e => hbelongs.state_ne_parked (hparked r hr e)
      exact ⟨r, (hkept r htag).2 hr, hbelongs⟩
    · obtain rfl := List.mem_singleton.1 hj
      exact ⟨x, hmem, hx⟩
  intent := by
    intro r hr hstate
    by_cases htag : r.unit.tag = it.tag
    · exact ⟨it, by simp, htag.symm⟩
    · obtain ⟨j, hj, hjtag⟩ := h.intent r ((hkept r htag).1 hr) hstate
      exact ⟨j, List.mem_append_left _ hj, hjtag⟩

/-- What of an intent its record is matched with: all but its state. -/
def Intent.essence (it : Intent) : IntentId × Direction × Tag × Quad := (it.id, it.dir, it.tag, it.delta)

theorem Intent.BelongsTo.of_essence {a b : Intent} (h : a.essence = b.essence) {r : UnitRecord} (hb : b.BelongsTo r) :
    a.BelongsTo r := by
  obtain ⟨id, dir, tag, delta, st⟩ := a
  obtain ⟨id', dir', tag', delta', st'⟩ := b
  simp only [Intent.essence, Prod.mk.injEq] at h
  obtain ⟨rfl, rfl, rfl, rfl⟩ := h
  exact hb

/-- The states of the intents do not matter. -/
theorem Matched.of_essence {opened opened' : List Intent} {records : List UnitRecord} (h : Matched opened records)
    (he : opened'.map Intent.essence = opened.map Intent.essence) : Matched opened' records := by
  have hmem : ∀ {a b : List Intent}, a.map Intent.essence = b.map Intent.essence → ∀ x ∈ a, ∃ y ∈ b, x.essence = y.essence := by
    intro a b hab x hx
    obtain ⟨y, hy, hxy⟩ := List.mem_map.1 (hab ▸ List.mem_map_of_mem hx : x.essence ∈ b.map Intent.essence)
    exact ⟨y, hy, hxy.symm⟩
  have hids : opened'.map Intent.id = opened.map Intent.id := by
    simpa [List.map_map, Function.comp_def, Intent.essence] using congrArg (List.map Prod.fst) he
  have htags : opened'.map Intent.tag = opened.map Intent.tag := by
    simpa [List.map_map, Function.comp_def, Intent.essence] using congrArg (List.map fun e => e.2.2.1) he
  refine ⟨hids ▸ h.ids, htags ▸ h.tags, fun it hit => ?_, fun r hr hstate => ?_⟩
  · obtain ⟨j, hj, hij⟩ := hmem he it hit
    obtain ⟨r, hr, hbelongs⟩ := h.record j hj
    exact ⟨r, hr, hbelongs.of_essence hij⟩
  · obtain ⟨j, hj, hjtag⟩ := h.intent r hr hstate
    obtain ⟨i, hi, hji⟩ := hmem he.symm j hj
    exact ⟨i, hi, (congrArg (fun e => e.2.2.1) hji).symm.trans hjtag⟩

theorem setState_essence (t : IntentTable) (id : IntentId) (st : IntentState) :
    (t.setState id st).open_.map Intent.essence = t.open_.map Intent.essence := by
  rw [IntentTable.setState_fields t id st |>.1, updateFirst_map]
  exact fun _ => rfl

theorem tick_essence (limit : Nat) (l : List Intent) : (l.map (Intent.tick limit)).map Intent.essence = l.map Intent.essence := by
  rw [List.map_map]
  refine List.map_congr_left fun it _ => ?_
  unfold Function.comp Intent.tick
  split <;> rfl

/-! ### Records of one tag changed -/

/-- Records of other tags are as they were where only those of a tag are changed, and their tag kept. -/
theorem mem_map_iff_of_tag {records : List UnitRecord} {tag : Tag} {f : UnitRecord → UnitRecord}
    (htag : ∀ y, (f y).unit.tag = y.unit.tag) (hf : ∀ y, y.unit.tag ≠ tag → f y = y) (x : UnitRecord) (hx : x.unit.tag ≠ tag) :
    x ∈ records.map f ↔ x ∈ records := by
  rw [List.mem_map]
  refine ⟨?_, fun hmem => ⟨x, hmem, hf x hx⟩⟩
  rintro ⟨y, hy, rfl⟩
  rwa [hf y (by rwa [htag] at hx)]

theorem mem_filter_iff_of_tag {records : List UnitRecord} {tag : Tag} (x : UnitRecord) (hx : x.unit.tag ≠ tag) :
    x ∈ records.filter (fun y => y.unit.tag != tag) ↔ x ∈ records := by
  simp [List.mem_filter, hx]

theorem mem_setState_iff_of_tag (u : UnitStore) (tag : Tag) (st : RecordState) (x : UnitRecord) (hx : x.unit.tag ≠ tag) :
    x ∈ (u.setState tag st).records ↔ x ∈ u.records :=
  mem_map_iff_of_tag (fun y => by split <;> rfl) (fun y hy => if_neg (by simpa using hy)) x hx

theorem mem_putBack_iff_of_tag (u : UnitStore) (tag : Tag) (x : UnitRecord) (hx : x.unit.tag ≠ tag) :
    x ∈ (u.putBack tag).records ↔ x ∈ u.records :=
  mem_map_iff_of_tag (fun y => by split <;> rfl) (fun y hy => if_neg (by simp [hy])) x hx

theorem state_of_mem_setState {u : UnitStore} {tag : Tag} {st : RecordState} {x : UnitRecord}
    (hx : x ∈ (u.setState tag st).records) (htag : x.unit.tag = tag) : x.state = st := by
  obtain ⟨y, -, rfl⟩ := List.mem_map.1 hx
  split
  case isTrue => rfl
  case isFalse hne =>
    rw [if_neg hne] at htag
    exact absurd (beq_iff_eq.2 htag) hne

/-- R91, R99: put back, a record that was LEAVING is PARKED. -/
theorem state_of_mem_putBack {u : UnitStore} {tag : Tag} (hleaving : ∀ y ∈ u.records, y.unit.tag = tag → y.state = .leaving)
    {x : UnitRecord} (hx : x ∈ (u.putBack tag).records) (htag : x.unit.tag = tag) : x.state = .parked := by
  obtain ⟨y, hy, rfl⟩ := List.mem_map.1 hx
  split
  case isTrue => rfl
  case isFalse hne =>
    rw [if_neg hne] at htag
    exact absurd (by simp [htag, hleaving y hy htag]) hne

/-! ### The invariant under each operation -/

/-- R88 with R22 and R87, the invariant in the terms of this section. -/
theorem intentsProper_iff (s : State) :
    IntentsProper s ↔ Matched s.intents.open_ s.units.records ∧ TagsDistinct s ∧ s.intents.open_.length ≤ Config.intentCap := by
  rw [IntentsProper, intentsMatchRecords_iff]

/-- The records of the tag of a record found are that record. -/
theorem state_of_find {u : UnitStore} (hnodup : u.TagsNodup) {r : UnitRecord} (hfind : u.find r.unit.tag = some r)
    {st : RecordState} (hstate : r.state = st) : ∀ y ∈ u.records, y.unit.tag = r.unit.tag → y.state = st := by
  intro y hy htag
  rwa [UnitStore.eq_of_tag hnodup hy (UnitStore.mem_of_find hfind) htag]

/-- A cancellation frees its intent, and leaves no record of its tag but a PARKED one (R91). -/
theorem cancelSteps_matched {s : State} (h : Matched s.intents.open_ s.units.records) (hnodup : s.units.TagsNodup) (im : Image)
    {it : Intent} (hit : it ∈ s.intents.open_) :
    Matched (cancelSteps im it s).intents.open_ (cancelSteps im it s).units.records ∧
      ∀ x ∈ (cancelSteps im it s).units.records, x.unit.tag = it.tag → x.state = .parked := by
  rw [cancelSteps_intents, IntentTable.free_fields s.intents it.id |>.1, cancelSteps_units]
  obtain ⟨r, hr, hbelongs⟩ := h.record it hit
  have hdone : ∀ x ∈ (match it.dir with
      | .place => s.units.remove it.tag
      | .remove => s.units.putBack it.tag).records, x.unit.tag = it.tag → x.state = .parked := by
    cases hdir : it.dir with
    | place =>
      intro x hx htag
      rw [UnitStore.remove_records] at hx
      simp [htag] at hx
    | remove =>
      obtain ⟨htag, hstate⟩ := hbelongs
      rw [hdir] at hstate
      have hleaving : ∀ y ∈ s.units.records, y.unit.tag = it.tag → y.state = .leaving := by
        intro y hy hytag
        rw [UnitStore.eq_of_tag hnodup hy hr (hytag.trans htag.symm)]
        exact hstate.1
      exact fun x hx => state_of_mem_putBack hleaving hx
  refine ⟨h.free hit (fun x hx => ?_) hdone, hdone⟩
  cases it.dir with
  | place => rw [UnitStore.remove_records]; exact mem_filter_iff_of_tag x hx
  | remove => exact mem_putBack_iff_of_tag s.units it.tag x hx

/-- What the invariant of R88 says but for the tags. -/
def MatchedWithin (s : State) : Prop := Matched s.intents.open_ s.units.records ∧ s.intents.open_.length ≤ Config.intentCap

theorem length_free_le (t : IntentTable) (id : IntentId) : (t.free id).open_.length ≤ t.open_.length :=
  List.filter_sublist.length_le

theorem cancelIntent_matchedWithin {s : State} (h : MatchedWithin s) (hnodup : s.units.TagsNodup) (im : Image) {it : Intent}
    (hit : it ∈ s.intents.open_) : MatchedWithin (cancelIntent im it s) := by
  obtain ⟨hunits, hintents, -⟩ := cancelIntent_blocks im it s
  have hmatched := (cancelSteps_matched h.1 hnodup im hit).1
  rw [cancelSteps_intents] at hmatched
  unfold MatchedWithin
  rw [hunits, hintents]
  exact ⟨hmatched, (length_free_le _ _).trans h.2⟩

theorem takeFrame_matchedWithin {s : State} (h : MatchedWithin s) (hnodup : s.units.TagsNodup) (im : Image) (f : Frame) :
    MatchedWithin (takeFrame im f s) := by
  unfold takeFrame
  split
  · split
    · cases hfind : s.intents.open_.find? fun it => it.state == .unannounced with
      | none => rw [enterQuiet_of_none hfind]; exact h
      | some it =>
        rw [enterQuiet_of_some hfind]
        exact cancelIntent_matchedWithin (s := quieted im s) h hnodup im (List.mem_of_find?_eq_some hfind)
    · exact h
  · split
    · simpa [MatchedWithin] using h
    · simpa [MatchedWithin] using h

theorem startAttempt_matchedWithin {s : State} (h : MatchedWithin s) (hnodup : s.units.TagsNodup) (im : Image) (n : Notice) :
    MatchedWithin (startAttempt im n s) := by
  unfold startAttempt
  split
  · split
    case h_1 it hfind =>
      split
      · exact h
      · exact cancelIntent_matchedWithin h hnodup im (IntentTable.mem_of_find hfind)
    case h_2 => exact h
  all_goals exact h

theorem complete_matchedWithin {s : State} (h : MatchedWithin s) (im : Image) (n : Notice) (rest : List Notice) :
    MatchedWithin (complete im n rest s) := by
  unfold complete
  dsimp only
  split
  · split <;> exact h
  · split
    · split
      · exact ⟨h.1.of_essence (setState_essence s.intents _ _), by simpa using h.2⟩
      · exact h
    · exact h
  all_goals exact h

/-- A placement's tag, an arrival's until now, is no record's (R22). -/
theorem applyArrival_matchedWithin {s : State} (h : MatchedWithin s) (htags : TagsDistinct s) (im : Image) {unit : UnitId}
    (hdue : arrivalDue s = some unit) : MatchedWithin (applyArrival im unit s) := by
  have hroom : s.intents.open_.length < 4 := (gateOpen_bounds (arrivalDue_gateOpen hdue)).2.1
  obtain ⟨_, -, -, -, hfree⟩ := IntentTable.nextId_spec (t := s.intents) (by omega)
  obtain ⟨e, hfind, hask⟩ := taken_of_arrivalDue hdue
  have hnew : unit.tag ∉ s.units.records.map fun r => r.unit.tag := by
    refine fun hmem => (List.nodup_append.1 htags).2.2 _ hmem _ (List.mem_filterMap.2 ⟨e, List.mem_of_find?_eq_some hfind, ?_⟩) rfl
    rw [arrivalTag, hask]
  unfold applyArrival
  split
  case h_1 c hplace =>
    obtain rfl : c.unit = unit := unit_of_outcomeOf hplace
    obtain ⟨hunits, hintents, -⟩ := applyPlace_blocks im c s
    unfold MatchedWithin
    rw [hunits, hintents]
    exact ⟨h.1.openPlace hfree hnew ⟨rfl, rfl, rfl⟩, by simp; omega⟩
  all_goals exact h

theorem applyDeparture_matchedWithin {s : State} (h : MatchedWithin s) (hnodup : s.units.TagsNodup) (im : Image) {r : UnitRecord}
    (hdue : departureDue s = some r) : MatchedWithin (applyDeparture im r s) := by
  have hroom : s.intents.open_.length < 4 := (gateOpen_bounds (departureDue_gateOpen hdue)).2.1
  obtain ⟨_, -, -, -, hfree⟩ := IntentTable.nextId_spec (t := s.intents) (by omega)
  obtain ⟨hfind, hstate⟩ := record_of_departureDue hdue
  unfold applyDeparture
  split_ifs
  · exact h
  · exact h
  · exact h
  · obtain ⟨hunits, hintents, -⟩ := applyRemove_blocks r s
    have hmem : { r with state := .leaving } ∈ (s.units.setState r.unit.tag .leaving).records :=
      (UnitStore.setState_perm hnodup hfind .leaving).mem_iff.2 (by simp)
    unfold MatchedWithin
    rw [hunits, hintents]
    exact ⟨h.1.openRemove hfree (state_of_find hnodup hfind hstate) (mem_setState_iff_of_tag s.units r.unit.tag .leaving) hmem
      ⟨rfl, rfl, rfl⟩, by simp; omega⟩

/-- A closure that takes the record out (R97, R98). -/
theorem matchedWithin_of_removed {s u : State} (h : MatchedWithin s) {im : Image} {r : UnitRecord} {it : Intent}
    {want : RecordState} (hcloses : Closes s im r it want) (hunits : u.units = s.units.remove r.unit.tag)
    (hintents : u.intents = s.intents.free it.id) : MatchedWithin u := by
  have htag := IntentTable.tag_of_ofTag hcloses.intent
  unfold MatchedWithin
  rw [hunits, hintents, UnitStore.remove_records]
  refine ⟨h.1.free (IntentTable.mem_of_ofTag hcloses.intent) (fun x hx => ?_) (fun x hx e => ?_),
    (length_free_le _ _).trans h.2⟩
  · exact mem_filter_iff_of_tag x (htag ▸ hx)
  · rw [htag] at e
    simp [e] at hx

theorem matchedWithin_reset : MatchedWithin State.reset :=
  ⟨⟨List.nodup_nil, List.nodup_nil, by simp [State.reset], by simp [State.reset]⟩, by simp [State.reset]⟩

/-- Every change keeps intents and records matched (R88). -/
theorem Changes.keeps_matchedWithin {s u : State} (h : MatchedWithin s) (htags : TagsDistinct s) (hu : Changes s u) :
    MatchedWithin u := by
  have hnodup := UnitStore.tagsNodup_of_distinct htags
  cases hu with
  | same => exact h
  | reset => exact matchedWithin_reset
  | restart => exact matchedWithin_reset
  | left => exact h
  | control => exact h
  | loaded => simpa [MatchedWithin] using h
  | listened => simpa [MatchedWithin] using h
  | joined => exact h
  | reportRead => simpa [MatchedWithin] using h
  | arrival => exact h
  | departure => exact h
  | withdrawn => exact h
  | parked im r it hcloses =>
    obtain ⟨hunits, hintents, -⟩ := closeParked_blocks im r it s
    have htag := IntentTable.tag_of_ofTag hcloses.intent
    unfold MatchedWithin
    rw [hunits, hintents]
    refine ⟨h.1.free (IntentTable.mem_of_ofTag hcloses.intent) (fun x hx => ?_) (fun x hx e => ?_),
      (length_free_le _ _).trans h.2⟩
    · exact mem_setState_iff_of_tag s.units r.unit.tag .parked x (htag ▸ hx)
    · exact state_of_mem_setState hx (e.trans htag)
  | abandoned im r it hcloses =>
    obtain ⟨hunits, hintents, -⟩ := closeAbandoned_blocks im r it s
    exact matchedWithin_of_removed h hcloses hunits hintents
  | departed im r it hcloses =>
    obtain ⟨hunits, hintents, -⟩ := closeDeparted_blocks im r it s
    exact matchedWithin_of_removed h hcloses hunits hintents
  | stayed im r it hcloses =>
    obtain ⟨hunits, hintents, -⟩ := closeStayed_blocks im r it s
    have htag := IntentTable.tag_of_ofTag hcloses.intent
    unfold MatchedWithin
    rw [hunits, hintents]
    refine ⟨h.1.free (IntentTable.mem_of_ofTag hcloses.intent) (fun x hx => ?_) (fun x hx e => ?_),
      (length_free_le _ _).trans h.2⟩
    · exact mem_putBack_iff_of_tag s.units r.unit.tag x (htag ▸ hx)
    · exact state_of_mem_putBack (state_of_find hnodup hcloses.record hcloses.state) hx (e.trans htag)
  | forcedParked im r him hfind hstate =>
    unfold MatchedWithin
    rw [(forceParked_blocks im r s).1, show (forceParked im r s).intents = s.intents by simp, UnitStore.remove_records]
    exact ⟨h.1.drop (state_of_find hnodup hfind hstate), h.2⟩
  | forcedUnannounced im r it hcloses =>
    obtain ⟨hunits, hintents, -⟩ := forceUnannounced_blocks im r it s
    obtain ⟨hmatched, hparked⟩ := cancelSteps_matched h.1 hnodup im (IntentTable.mem_of_ofTag hcloses.intent)
    rw [IntentTable.tag_of_ofTag hcloses.intent] at hparked
    rw [cancelSteps_intents] at hmatched
    unfold MatchedWithin
    rw [hunits, hintents, UnitStore.remove_records]
    exact ⟨hmatched.drop hparked, (length_free_le _ _).trans h.2⟩
  | window => simpa [MatchedWithin] using h
  | switched => simpa [MatchedWithin] using h
  | plans => exact h
  | block => exact h
  | panel lowered =>
    unfold MatchedWithin
    simp only [panelChanged, releaseHeld_fields]
    split <;> simpa [MatchedWithin] using h
  | restored im lane offset unit =>
    unfold MatchedWithin
    simp only [settle_frame, insertRecord_units, insertRecord_frame, UnitStore.insert_fields]
    exact ⟨h.1.add rfl, h.2⟩
  | evaluatedArrival im unit him hdue => exact applyArrival_matchedWithin h htags im hdue
  | evaluatedDeparture im r him hdue => exact applyDeparture_matchedWithin h hnodup im hdue
  | waited => simpa [MatchedWithin] using h
  | livedOut id tag => exact ⟨h.1.of_essence (setState_essence s.intents id .overdue), by simpa using h.2⟩
  | heartbeat => exact h
  | attempt im n => exact startAttempt_matchedWithin h hnodup im n
  | collided => exact h
  | completed im n rest => exact complete_matchedWithin h im n rest
  | line => exact h
  | frame im f => exact takeFrame_matchedWithin (s := lineJudged s) h hnodup im f
  | silent => simpa [MatchedWithin] using h
  | ticked im => exact ⟨h.1.of_essence (tick_essence im.lifetimeMs s.intents.open_), by simpa [tickBlocks] using h.2⟩

/-- Settles O59: matching and tags together are kept by every change. -/
theorem intentsKept : Obligations.IntentsKept := by
  refine step_keeps (P := IntentsProper) (fun _ _ _ => Iff.rfl) fun s u h hu => ?_
  obtain ⟨hmatched, htags, hlength⟩ := (intentsProper_iff s).1 h
  obtain ⟨gmatched, glength⟩ := hu.keeps_matchedWithin ⟨hmatched, hlength⟩ htags
  exact (intentsProper_iff u).2 ⟨gmatched, hu.keeps_tags htags, glength⟩

end Sys2Proof.Machine
end

section
/-! PROOFS. Each lane stays spaced, ordered, within its length and its capacity (R8, R9, R13): records only leave a lane or change
their state, but for the one record that joins its lane as the newest. -/

namespace Sys2Proof.Machine

open Sys2Proof.Safety

/-! ### Records that keep their places -/

/-- A change of a record that keeps its unit, its lane and its offset. -/
def KeepsPlace (g : UnitRecord → UnitRecord) : Prop := ∀ r, (g r).unit = r.unit ∧ (g r).lane = r.lane ∧ (g r).offset = r.offset

/-- The records `new` are among `old`, in their order and each in its place. -/
def PlacesWithin (old new : List UnitRecord) : Prop := ∃ g, KeepsPlace g ∧ new.Sublist (old.map g)

theorem PlacesWithin.of_sublist {old new : List UnitRecord} (h : new.Sublist old) : PlacesWithin old new :=
  ⟨id, fun _ => ⟨rfl, rfl, rfl⟩, by simpa using h⟩

theorem PlacesWithin.refl (records : List UnitRecord) : PlacesWithin records records := .of_sublist (List.Sublist.refl _)

theorem PlacesWithin.trans {a b c : List UnitRecord} (h : PlacesWithin a b) (k : PlacesWithin b c) : PlacesWithin a c := by
  obtain ⟨g, hg, hsub⟩ := h
  obtain ⟨f, hf, ksub⟩ := k
  refine ⟨f ∘ g, fun r => ?_, ksub.trans (by rw [← List.map_map]; exact hsub.map f)⟩
  obtain ⟨hu, hl, ho⟩ := hf (g r)
  obtain ⟨gu, gl, go⟩ := hg r
  exact ⟨hu.trans gu, hl.trans gl, ho.trans go⟩

theorem placesWithin_setState (u : UnitStore) (tag : Tag) (st : RecordState) : PlacesWithin u.records (u.setState tag st).records :=
  ⟨_, fun r => by split <;> exact ⟨rfl, rfl, rfl⟩, List.Sublist.refl _⟩

theorem placesWithin_putBack (u : UnitStore) (tag : Tag) : PlacesWithin u.records (u.putBack tag).records :=
  ⟨_, fun r => by split <;> exact ⟨rfl, rfl, rfl⟩, List.Sublist.refl _⟩

theorem placesWithin_remove (u : UnitStore) (tag : Tag) : PlacesWithin u.records (u.remove tag).records := by
  rw [UnitStore.remove_records]
  exact .of_sublist List.filter_sublist

/-- What a lane asks of its records (R8, R9, R13) is kept by records that keep their places. -/
theorem laneProper_within {im : Image} {old new : List UnitRecord} {lane : Nat} (h : LaneProper im old lane)
    (hwithin : PlacesWithin old new) : LaneProper im new lane := by
  obtain ⟨g, hg, hsub⟩ := hwithin
  obtain ⟨hspaced, hordered, hlength, hcap⟩ := h
  have hlane : onLane (old.map g) lane = (onLane old lane).map g := by
    unfold onLane
    rw [List.filter_map]
    exact congrArg _ (List.filter_congr fun r _ => by simp [hg r])
  have hsub : (onLane new lane).Sublist ((onLane old lane).map g) := hlane ▸ hsub.filter _
  have hunit : ∀ r, (g r).unit = r.unit := fun r => (hg r).1
  have hoffset : ∀ r, (g r).offset = r.offset := fun r => (hg r).2.2
  refine ⟨(List.pairwise_map.2 ?_).sublist hsub, (List.pairwise_map.2 ?_).sublist hsub, fun r hr => ?_, ?_⟩
  · simp only [Spaced, hunit, hoffset]; exact hspaced
  · simp only [Ordered, hunit]; exact hordered
  · obtain ⟨x, hx, rfl⟩ := List.mem_map.1 (hsub.subset hr)
    simpa only [hunit, hoffset] using hlength x hx
  · exact hsub.length_le.trans (by simpa using hcap)

/-- R8, R9, R13, R20 are kept where the records keep their places and the station, unless LOADING already, is not LOADING. -/
theorem lanesProper_within {s u : State} (h : LanesProper s) (hwithin : PlacesWithin s.units.records u.units.records)
    (himage : u.image = s.image) (hloading : u.control.station = .loading → s.control.station = .loading) : LanesProper u := by
  obtain ⟨hpool, hnone, hlanes⟩ := h
  have hlength : u.units.records.length ≤ s.units.records.length := by
    obtain ⟨g, -, hsub⟩ := hwithin
    simpa using hsub.length_le
  refine ⟨hlength.trans hpool, fun hu => himage ▸ hnone (hloading hu), ?_⟩
  rw [himage]
  cases hi : s.image with
  | none =>
    rw [hi] at hlanes
    simp only at hlanes
    exact List.eq_nil_of_length_eq_zero (by simpa [hlanes] using hlength)
  | some im =>
    rw [hi] at hlanes
    exact fun lane => laneProper_within (hlanes lane) hwithin

theorem lanesProper_of_eq {s u : State} (h : LanesProper s) (hunits : u.units.records = s.units.records)
    (himage : u.image = s.image) (hstation : u.control.station = s.control.station) : LanesProper u :=
  lanesProper_within h (hunits ▸ .refl _) himage fun e => hstation ▸ e

/-! ### The record that joins -/

/-- What precedes the last of a list stands in the list's relation to it. -/
theorem rel_getLast_of_pairwise {α : Type} {R : α → α → Prop} {l : List α} (h : l.Pairwise R) {a last : α}
    (hlast : l.getLast? = some last) (ha : a ∈ l) : a = last ∨ R a last := by
  obtain ⟨init, rfl⟩ := List.getLast?_eq_some_iff.1 hlast
  rcases List.mem_append.1 ha with ha | ha
  · exact .inr ((List.pairwise_append.1 h).2.2 a ha last (by simp))
  · exact .inl (by simpa using ha)

theorem pairwise_append_singleton {α : Type} {R : α → α → Prop} {l : List α} {x : α} (h : l.Pairwise R)
    (hx : ∀ a ∈ l, R a x) : (l ++ [x]).Pairwise R :=
  List.pairwise_append.2 ⟨h, List.pairwise_singleton R x, fun a ha b hb => by
    obtain rfl := List.mem_singleton.1 hb
    exact hx a ha⟩

theorem exists_newest {records : List UnitRecord} {lane : Nat} {a : UnitRecord} (ha : a ∈ onLane records lane) :
    ∃ newest, (onLane records lane).getLast? = some newest :=
  ⟨_, List.getLast?_eq_some_getLast (List.ne_nil_of_mem ha)⟩

/-- R8: what starts behind the occupied length is spaced from every record of the lane. -/
theorem spaced_of_behind {im : Image} {records : List UnitRecord} {lane : Nat} (h : (onLane records lane).Pairwise (Spaced im))
    {x : UnitRecord} (hbehind : occupied im.gap records lane ≤ x.offset) : ∀ a ∈ onLane records lane, Spaced im a x := by
  intro a ha
  obtain ⟨newest, hnewest⟩ := exists_newest ha
  unfold occupied newestOn at hbehind
  rw [hnewest] at hbehind
  rcases rel_getLast_of_pairwise h hnewest ha with rfl | hspaced
  · exact hbehind
  · unfold Spaced at hspaced ⊢
    simp only at hbehind
    omega

/-- R9: a port that may follow the newest may follow every record of the lane. -/
theorem ordered_of_allowed {order : OrderKind} {records : List UnitRecord} {lane : Nat}
    (h : (onLane records lane).Pairwise (Ordered order)) {x : UnitRecord}
    (hallowed : orderAllows order (newestOn records lane) x.unit.port = true) : ∀ a ∈ onLane records lane, Ordered order a x := by
  intro a ha
  obtain ⟨newest, hnewest⟩ := exists_newest ha
  rw [newestOn, hnewest] at hallowed
  have hrel := rel_getLast_of_pairwise h hnewest ha
  cases order with
  | through =>
    have hlast : newest.unit.port ≤ x.unit.port := by simpa [orderAllows] using hallowed
    rcases hrel with rfl | hrel
    · exact hlast
    · exact Nat.le_trans hrel hlast
  | blind =>
    have hlast : x.unit.port ≤ newest.unit.port := by simpa [orderAllows] using hallowed
    rcases hrel with rfl | hrel
    · exact hlast
    · exact Nat.le_trans hlast hrel

theorem onLane_append_of_ne (records : List UnitRecord) {x : UnitRecord} {lane : Nat} (h : x.lane ≠ lane) :
    onLane (records ++ [x]) lane = onLane records lane := by
  simp [onLane, List.filter_append, h]

theorem onLane_append_self (records : List UnitRecord) (x : UnitRecord) :
    onLane (records ++ [x]) x.lane = onLane records x.lane ++ [x] := by
  simp [onLane, List.filter_append]

/-- R14, R15: a record that joins a lane as its newest leaves every lane proper. -/
theorem lanesProper_insert {s u : State} (h : LanesProper s) {im : Image} (him : s.image = some im) {x : UnitRecord}
    (hjoins : Joins s im x.lane x.offset x.unit) (hrecords : u.units.records = s.units.records ++ [x])
    (himage : u.image = s.image) (hstation : u.control.station = s.control.station) : LanesProper u := by
  obtain ⟨-, hnone, hlanes⟩ := h
  obtain ⟨hbehind, hwithin, horder, hlaneRoom, hpoolRoom⟩ := hjoins
  rw [him] at hlanes
  refine ⟨by rw [hrecords]; simpa using hpoolRoom, fun e => himage ▸ hnone (hstation ▸ e), ?_⟩
  rw [himage, him, hrecords]
  intro lane
  by_cases hlane : x.lane = lane
  · subst hlane
    obtain ⟨hspaced, hordered, hlength, -⟩ := hlanes x.lane
    unfold LaneProper
    rw [onLane_append_self]
    refine ⟨pairwise_append_singleton hspaced (spaced_of_behind hspaced hbehind),
      pairwise_append_singleton hordered (ordered_of_allowed hordered horder), fun r hr => ?_, by simpa using hlaneRoom⟩
    rcases List.mem_append.1 hr with hr | hr
    · exact hlength r hr
    · obtain rfl := List.mem_singleton.1 hr
      exact hwithin
  · unfold LaneProper
    rw [onLane_append_of_ne _ hlane]
    exact hlanes lane

/-- R55: a placement's candidate may join its lane. -/
theorem joins_of_outcomeOf {s : State} {im : Image} {unit : UnitId} {c : Candidate} (h : outcomeOf s im unit = .place c) :
    Joins s im c.lane c.offset c.unit := by
  obtain ⟨hmem, hpasses⟩ := outcomeOf_place h
  obtain ⟨lane, -, rfl⟩ := (mem_candidates_iff s im unit c).1 hmem
  rw [reached_eq_none_iff] at hpasses
  obtain ⟨hwithin, hlane, hpool⟩ := hpasses .room
  exact ⟨Nat.le_refl _, hwithin, (fitsOrder_iff_passes s im _).2 (hpasses .order), hlane, hpool⟩

/-! ### The invariant under each operation -/

theorem placesWithin_cancelSteps (im : Image) (it : Intent) (s : State) :
    PlacesWithin s.units.records (cancelSteps im it s).units.records := by
  rw [cancelSteps_units]
  cases it.dir with
  | place => exact placesWithin_remove s.units it.tag
  | remove => exact placesWithin_putBack s.units it.tag

theorem cancelIntent_lanesProper {s : State} (h : LanesProper s) (im : Image) (it : Intent) : LanesProper (cancelIntent im it s) := by
  refine lanesProper_within h ?_ (by simp) (by simp)
  rw [(cancelIntent_blocks im it s).1]
  exact placesWithin_cancelSteps im it s

theorem takeFrame_lanesProper {s : State} (h : LanesProper s) (im : Image) (f : Frame) : LanesProper (takeFrame im f s) := by
  unfold takeFrame
  split
  · split
    · have hquieted : LanesProper (quieted im s) := lanesProper_within h (.refl _) rfl (by simp [quieted])
      cases hfind : s.intents.open_.find? fun it => it.state == .unannounced with
      | none => rwa [enterQuiet_of_none hfind]
      | some it =>
        rw [enterQuiet_of_some hfind]
        exact cancelIntent_lanesProper hquieted im it
    · exact h
  · split <;> exact lanesProper_of_eq h (by simp) (by simp) (by simp)

theorem startAttempt_lanesProper {s : State} (h : LanesProper s) (im : Image) (n : Notice) : LanesProper (startAttempt im n s) := by
  unfold startAttempt
  split
  · split
    · split
      · exact h
      · exact cancelIntent_lanesProper h im _
    · exact h
  all_goals exact h

theorem applyArrival_lanesProper {s : State} (h : LanesProper s) {im : Image} (him : s.image = some im) (unit : UnitId) :
    LanesProper (applyArrival im unit s) := by
  unfold applyArrival
  split
  case h_1 c hplace =>
    refine lanesProper_insert h (x := c.record) him (joins_of_outcomeOf hplace) ?_ (by simp) (by simp)
    simp [(applyPlace_blocks im c s).1]
  all_goals exact h

theorem applyDeparture_lanesProper {s : State} (h : LanesProper s) (im : Image) (r : UnitRecord) :
    LanesProper (applyDeparture im r s) := by
  unfold applyDeparture
  split_ifs
  · exact h
  · exact h
  · exact h
  · refine lanesProper_within h ?_ (by simp) (by simp)
    rw [(applyRemove_blocks r s).1]
    exact placesWithin_setState s.units r.unit.tag .leaving

theorem lanesProper_resetAll (s : State) : LanesProper (resetAll s) :=
  ⟨by simp [resetAll, State.reset], fun _ => rfl, rfl⟩

/-- Every change keeps every lane proper (R8, R9, R13). -/
theorem Changes.keeps_lanesProper {s u : State} (h : LanesProper s) (hu : Changes s u) : LanesProper u := by
  cases hu with
  | same => exact h
  | reset => exact lanesProper_resetAll s
  | restart panel switch => exact lanesProper_of_eq (lanesProper_resetAll s) rfl rfl rfl
  | left panel switch => exact lanesProper_of_eq h rfl rfl rfl
  | control c fresh hstation =>
    exact lanesProper_within h (.refl _) rfl fun e => hstation.elim (fun hs => hs ▸ e) fun hs => by simp [hs] at e
  | loaded im c fresh hstation =>
    obtain ⟨hpool, hnone, hlanes⟩ := h
    rw [hnone hstation] at hlanes
    refine ⟨by simpa using hpool, by simp [enterListening], ?_⟩
    simp only at hlanes
    simp [enterListening, hlanes, LaneProper, onLane]
  | listened hstation =>
    refine lanesProper_within h (by simpa using .refl _) (by simp) ?_
    unfold listenOver
    dsimp only
    split <;> simp
  | joined => exact lanesProper_within h (.refl _) rfl (by simp)
  | reportRead => exact lanesProper_of_eq h (by simp) (by simp) (by simp)
  | arrival => exact h
  | departure => exact h
  | withdrawn => exact h
  | parked im r it hcloses =>
    refine lanesProper_within h ?_ (by simp) (by simp)
    rw [(closeParked_blocks im r it s).1]
    exact placesWithin_setState s.units r.unit.tag .parked
  | abandoned im r it hcloses =>
    refine lanesProper_within h ?_ (by simp) (by simp)
    rw [(closeAbandoned_blocks im r it s).1]
    exact placesWithin_remove s.units r.unit.tag
  | departed im r it hcloses =>
    refine lanesProper_within h ?_ (by simp) (by simp)
    rw [(closeDeparted_blocks im r it s).1]
    exact placesWithin_remove s.units r.unit.tag
  | stayed im r it hcloses =>
    refine lanesProper_within h ?_ (by simp) (by simp)
    rw [(closeStayed_blocks im r it s).1]
    exact placesWithin_putBack s.units r.unit.tag
  | forcedParked im r him hfind hstate =>
    refine lanesProper_within h ?_ (by simp) (by simp)
    rw [(forceParked_blocks im r s).1]
    exact placesWithin_remove s.units r.unit.tag
  | forcedUnannounced im r it hcloses =>
    refine lanesProper_within h ?_ (by simp) (by simp)
    rw [(forceUnannounced_blocks im r it s).1]
    exact (placesWithin_cancelSteps im it s).trans (placesWithin_remove _ r.unit.tag)
  | window => exact lanesProper_of_eq h (by simp) (by simp) (by simp)
  | switched => exact lanesProper_of_eq h (by simp) (by simp) (by simp)
  | plans => exact h
  | block => exact h
  | panel lowered =>
    refine lanesProper_of_eq h ?_ (by simp) (by simp)
    simp only [panelChanged, releaseHeld_fields]
    split <;> simp
  | restored im lane offset unit him htag hjoins =>
    exact lanesProper_insert h (x := restoredRecord im lane offset unit) him hjoins (by simp) (by simp) (by simp)
  | evaluatedArrival im unit him => exact applyArrival_lanesProper h him unit
  | evaluatedDeparture im r => exact applyDeparture_lanesProper h im r
  | waited => exact lanesProper_of_eq h (by simp) (by simp) (by simp)
  | livedOut => exact h
  | heartbeat => exact h
  | attempt im n => exact startAttempt_lanesProper h im n
  | collided => exact h
  | completed im n rest => exact lanesProper_of_eq h (by simp) (by simp) (by simp)
  | line => exact h
  | frame im f => exact takeFrame_lanesProper (s := lineJudged s) h im f
  | silent => exact lanesProper_of_eq h (by simp) (by simp) (by simp)
  | ticked im c hstation => exact lanesProper_of_eq h rfl rfl hstation

/-- Settles O58. -/
theorem lanesKept : Obligations.LanesKept :=
  step_keeps (P := LanesProper) (fun _ _ _ => Iff.rfl) fun _ _ h hu => hu.keeps_lanesProper h

end Sys2Proof.Machine
end

section
/-! PROOFS. The limit-excess state agrees with the view (R82): what every command changes of the view it settles, and a peer record
hands on every change that can move the view, because the recorded intents of a peer have distinct ids (R124). -/

namespace Sys2Proof.Machine

open Sys2Proof.Safety

/-! ### What the six excesses depend on -/

/-- The parts of two states that the excesses of the view without a candidate are made from are the same. -/
structure SameSides (s u : State) : Prop where
  wMin : u.view.wMin = s.view.wMin
  wMax : u.view.wMax = s.view.wMax
  sums : u.units.sums = s.units.sums
  deltas : u.intents.open_.map Intent.delta = s.intents.open_.map Intent.delta
  low : ∀ im, u.peers.peers.map (peerLow im) = s.peers.peers.map (peerLow im)
  high : ∀ im, u.peers.peers.map (peerHigh im) = s.peers.peers.map (peerHigh im)

theorem otherIntents_none (s : State) : otherIntents s none = s.intents.open_ :=
  List.filter_eq_self.2 fun _ _ => rfl

theorem excessNow_of_sameSides {s u : State} (h : SameSides s u) (im : Image) : excessNow u im = excessNow s im := by
  have hdeltas (g : Quad → Quad) : u.intents.open_.map (fun it => g it.delta) = s.intents.open_.map fun it => g it.delta := by
    simpa only [List.map_map, Function.comp_def] using congrArg (List.map g) h.deltas
  simp only [excessNow, viewLow, viewHigh, otherIntents_none, hdeltas, h.sums, h.low, h.high, excessOf, h.wMin, h.wMax]

/-- What a command that leaves the view alone leaves as it was. -/
structure ViewLeft (s u : State) : Prop where
  image : u.image = s.image
  view : u.view = s.view
  sums : u.units.sums = s.units.sums
  deltas : u.intents.open_.map Intent.delta = s.intents.open_.map Intent.delta
  peers : u.peers.peers = s.peers.peers

theorem ViewLeft.sameSides {s u : State} (h : ViewLeft s u) : SameSides s u where
  wMin := by rw [h.view]
  wMax := by rw [h.view]
  sums := h.sums
  deltas := h.deltas
  low := fun im => by rw [h.peers]
  high := fun im => by rw [h.peers]

theorem excessAgrees_of_sameSides {s u : State} (h : ExcessAgrees s) (himage : u.image = s.image)
    (hlimit : u.view.limitExcess = s.view.limitExcess) (hsame : SameSides s u) : ExcessAgrees u := by
  unfold ExcessAgrees at h ⊢
  rw [himage, hlimit]
  simpa only [excessNow_of_sameSides hsame] using h

theorem viewSettled_left {s u : State} (h : ViewSettled s) (g : ViewLeft s u) : ViewSettled u := by
  obtain ⟨hagrees, hrecorded⟩ := h
  exact ⟨excessAgrees_of_sameSides hagrees g.image (by rw [g.view]) g.sameSides,
    fun p hp => hrecorded p (g.peers ▸ hp)⟩

/-! ### Settling -/

theorem excessAgrees_settle {s : State} {im : Image} (him : s.image = some im) : ExcessAgrees (settle s) := by
  have hagrees (t : State) (ht : t.image = some im) (hsame : SameSides s t)
      (hlimit : t.view.limitExcess = (excessNow s im).any) : ExcessAgrees t := by
    unfold ExcessAgrees
    rw [ht]
    simpa only [excessNow_of_sameSides hsame] using hlimit
  unfold settle
  rw [him]
  dsimp only
  split
  case isTrue h => exact hagrees s him ⟨rfl, rfl, rfl, rfl, fun _ => rfl, fun _ => rfl⟩ h.symm
  case isFalse => exact hagrees _ rfl ⟨rfl, rfl, rfl, rfl, fun _ => rfl, fun _ => rfl⟩ rfl

theorem viewSettled_settle {s : State} {im : Image} (him : s.image = some im) (h : RecordedIntentsProper s) :
    ViewSettled (settle s) :=
  ⟨excessAgrees_settle him, by simpa [RecordedIntentsProper] using h⟩

theorem viewSettled_freed {s : State} {im' : Image} (him : s.image = some im') (h : RecordedIntentsProper s) (im : Image)
    (lane : Nat) : ViewSettled (freed im lane s) :=
  viewSettled_settle (im := im') (by simpa using him) (by simpa [RecordedIntentsProper] using h)

theorem viewSettled_cancelIntent {s : State} {im' : Image} (him : s.image = some im') (h : RecordedIntentsProper s) (im : Image)
    (it : Intent) : ViewSettled (cancelIntent im it s) :=
  viewSettled_left (s := freed im (laneOfTag s it.tag) (cancelSteps im it s))
    (viewSettled_freed (im' := im') (by simpa using him) (by simpa [RecordedIntentsProper] using h) im _)
    (by constructor <;> simp [cancelIntent])

/-! ### The records of the peers -/

/-- R124 of one record. -/
def Peer.RecordsProper (p : Peer) : Prop := p.recorded.length ≤ Config.recordedCap ∧ (p.recorded.map IntentEntry.id).Nodup

theorem idsAscending_cons {a : IntentEntry} {l : List IntentEntry} (h : idsAscending (a :: l) = true) :
    (∀ b ∈ l, a.id.val < b.id.val) ∧ idsAscending l = true := by
  induction l generalizing a with
  | nil => exact ⟨by simp, rfl⟩
  | cons b l ih =>
    obtain ⟨hlt, hrest⟩ : a.id.val < b.id.val ∧ idsAscending (b :: l) = true := by simpa [idsAscending] using h
    refine ⟨fun c hc => ?_, hrest⟩
    rcases List.mem_cons.1 hc with rfl | hc
    · exact hlt
    · exact hlt.trans ((ih hrest).1 c hc)

/-- R181: the ids of a SUMMARY's list ascend. -/
theorem idsAscending_iff (l : List IntentEntry) : idsAscending l = true ↔ l.Pairwise fun a b => a.id.val < b.id.val := by
  induction l with
  | nil => simp [idsAscending]
  | cons a l ih =>
    rw [List.pairwise_cons, ← ih]
    refine ⟨idsAscending_cons, fun ⟨hlt, hrest⟩ => ?_⟩
    cases l with
    | nil => rfl
    | cons b l => simpa [idsAscending] using ⟨hlt b (by simp), hrest⟩

theorem nodup_of_idsAscending {l : List IntentEntry} (h : idsAscending l = true) : (l.map IntentEntry.id).Nodup :=
  List.pairwise_map.2 (((idsAscending_iff l).1 h).imp fun hlt e => absurd hlt (by simp [e]))

theorem Peer.without_proper {p : Peer} (h : p.RecordsProper) (id : IntentId) :
    (p.without id).length ≤ Config.recordedCap ∧ ((p.without id).map IntentEntry.id).Nodup :=
  ⟨List.filter_sublist.length_le.trans h.1, h.2.sublist (List.filter_sublist.map _)⟩

/-- R130: an id recorded already gives its place up, and an overflow drops the oldest. -/
theorem Peer.apply_intent_proper {p : Peer} (h : p.RecordsProper) (e : IntentEntry) : (p.apply (.intent e)).RecordsProper := by
  obtain ⟨hlength, hnodup⟩ := h
  have hcap : Config.recordedCap = 4 := rfl
  unfold Peer.RecordsProper
  simp only [Peer.apply]
  by_cases hover : p.overflows e = true
  · obtain ⟨hnew, hfull⟩ := (Peer.overflows_iff p e).1 hover
    have hnot : e.id ∉ p.recorded.map IntentEntry.id := by simpa using hnew
    rw [if_pos hover]
    refine ⟨by simp; omega, nodup_map_append_singleton (hnodup.sublist ((List.drop_sublist 1 _).map _)) fun hmem => hnot ?_⟩
    exact ((List.drop_sublist 1 p.recorded).map IntentEntry.id).subset hmem
  · rw [if_neg hover]
    have hshort : (p.without e.id).length < 4 := by
      by_cases hany : ∃ x ∈ p.recorded, x.id = e.id
      · have hlt : (p.without e.id).length < p.recorded.length := by
          obtain ⟨x, hx, hid⟩ := hany
          exact List.length_filter_lt_length_iff_exists.2 ⟨x, hx, by simp [hid]⟩
        omega
      · have hnew : p.recorded.any (fun x => x.id == e.id) = false := by simpa using hany
        have := mt (Peer.overflows_iff p e).2 hover
        have hle : (p.without e.id).length ≤ p.recorded.length := List.filter_sublist.length_le
        simp only [hnew, true_and] at this
        omega
    refine ⟨by simp; omega, nodup_map_append_singleton (Peer.without_proper ⟨hlength, hnodup⟩ e.id).2 ?_⟩
    simp [Peer.without]

theorem Peer.apply_proper {p : Peer} (h : p.RecordsProper) {b : FrameBody} (hvalid : b.valid = true) : (p.apply b).RecordsProper := by
  cases b with
  | summary sums parked es =>
    obtain ⟨⟨⟨⟨-, -⟩, hlength⟩, hids⟩, -⟩ : (((sumsValid sums = true ∧ parked ≤ 512) ∧ es.length ≤ 4) ∧ idsAscending es = true) ∧
        es.all entryValid = true := by
      simpa only [FrameBody.valid, Bool.and_eq_true, decide_eq_true_eq] using hvalid
    exact ⟨hlength, nodup_of_idsAscending hids⟩
  | intent e => exact Peer.apply_intent_proper h e
  | settle id sums => exact Peer.without_proper h id
  | retract id => exact Peer.without_proper h id

theorem Peer.take_proper {p : Peer} (h : p.RecordsProper) {f : Frame} (hvalid : f.body.valid = true) : (p.take f).RecordsProper := by
  by_cases hclass : p.classOf f = .repeated
  · rwa [Peer.take_repeated hclass]
  · rw [Peer.take_applied hclass]
    exact Peer.apply_proper h hvalid

theorem Peer.apply_number (p : Peer) (b : FrameBody) : (p.apply b).number = p.number := by
  cases b <;> rfl

theorem Peer.take_number (p : Peer) (f : Frame) : (p.take f).number = p.number := by
  by_cases hclass : p.classOf f = .repeated
  · rw [Peer.take_repeated hclass]
  · rw [Peer.take_applied hclass]
    exact Peer.apply_number p f.body

/-- A peer's terms of the view come from its number, its lock state, its sums and its recorded intents. -/
theorem peerTerms_of_eq {p q : Peer} (hnumber : q.number = p.number) (hlock : q.lock = p.lock) (hsums : q.sums = p.sums)
    (hrecorded : q.recorded.Perm p.recorded) (im : Image) : peerLow im q = peerLow im p ∧ peerHigh im q = peerHigh im p := by
  unfold peerLow peerHigh
  rw [hnumber, hlock, hsums, Quad.sum_perm (hrecorded.map _), Quad.sum_perm (hrecorded.map _)]
  exact ⟨rfl, rfl⟩

/-- R134 with R124: with distinct ids, two lists of the same set are each other's permutation. -/
theorem perm_of_sameRecorded {p q : Peer} (hp : p.RecordsProper) (hq : q.RecordsProper)
    (h : sameRecorded p.recorded q.recorded = true) : q.recorded.Perm p.recorded := by
  refine (List.perm_ext_iff_of_nodup (List.Nodup.of_map _ hq.2) (List.Nodup.of_map _ hp.2)).2 fun e => ?_
  obtain ⟨hpq, hqp⟩ : (∀ e ∈ p.recorded, e ∈ q.recorded) ∧ ∀ e ∈ q.recorded, e ∈ p.recorded := by
    simpa [sameRecorded] using h
  exact ⟨hqp e, hpq e⟩

theorem Peer.changed_eq_false_iff (p q : Peer) :
    Peer.changed p q = false ↔ (p.sums = q.sums ∧ sameRecorded p.recorded q.recorded = true) ∧ p.lock = q.lock := by
  simp [Peer.changed]

/-- The first record of a number replaced by one with the same terms leaves the terms of all as they were. -/
theorem map_put_of_term_eq {α : Type} {t : PeerTable} {p q : Peer} (hfind : t.find p.number = some p) (hnumber : q.number = p.number)
    {term : Peer → α} (hterm : term q = term p) : (t.put q).peers.map term = t.peers.map term := by
  have hfind : t.peers.find? (fun x => x.number == q.number) = some p := by rw [hnumber]; exact hfind
  obtain ⟨before, after, hpeers, hput⟩ := updateFirst_of_find? (f := fun _ => q) hfind
  rw [PeerTable.put_fields t q |>.1, hput, hpeers]
  simp [hterm]

theorem recorded_put {s : State} (h : RecordedIntentsProper s) {q : Peer} (hq : q.RecordsProper) :
    ∀ p ∈ (s.peers.put q).peers, p.RecordsProper := by
  intro p hp
  rw [PeerTable.put_fields s.peers q |>.1] at hp
  rcases mem_of_mem_updateFirst _ _ hp with hp | ⟨-, -, rfl⟩
  · exact h p hp
  · exact hq

/-- R134: a record is replaced, and the state settled unless the view is as it was. -/
theorem viewSettled_putPeer {s : State} (h : ViewSettled s) {im : Image} (him : s.image = some im) {p q : Peer}
    (hfind : s.peers.find p.number = some p) (hnumber : q.number = p.number) (hq : q.RecordsProper) :
    ViewSettled (putPeer p q s) := by
  obtain ⟨hagrees, hrecorded⟩ := h
  unfold putPeer
  dsimp only
  split
  case isTrue =>
    exact viewSettled_settle (im := im) (by simpa using him) (fun x hx => recorded_put hrecorded hq x (by simpa using hx))
  case isFalse hchanged =>
    obtain ⟨⟨hsums, hsame⟩, hlock⟩ := (Peer.changed_eq_false_iff p q).1 (by simpa using hchanged)
    have hp : p.RecordsProper := hrecorded p (List.mem_of_find?_eq_some hfind)
    have hterms := peerTerms_of_eq hnumber hlock.symm hsums.symm (perm_of_sameRecorded hp hq hsame)
    refine ⟨excessAgrees_of_sameSides hagrees rfl rfl ⟨rfl, rfl, rfl, rfl, fun im => ?_, fun im => ?_⟩,
      recorded_put hrecorded hq⟩
    · exact map_put_of_term_eq hfind hnumber (hterms im).1
    · exact map_put_of_term_eq hfind hnumber (hterms im).2

theorem Peer.tick_kept (limit : Nat) (p : Peer) :
    (p.tick limit).number = p.number ∧ (p.tick limit).lock = p.lock ∧ (p.tick limit).sums = p.sums ∧
      (p.tick limit).recorded = p.recorded := by
  unfold Peer.tick
  split <;> exact ⟨rfl, rfl, rfl, rfl⟩

theorem Peer.tick_terms (limit : Nat) (im : Image) (p : Peer) :
    peerLow im (p.tick limit) = peerLow im p ∧ peerHigh im (p.tick limit) = peerHigh im p := by
  obtain ⟨hnumber, hlock, hsums, hrecorded⟩ := Peer.tick_kept limit p
  exact peerTerms_of_eq hnumber hlock hsums (hrecorded ▸ .refl _) im

theorem tick_deltas (limit : Nat) (l : List Intent) : (l.map (Intent.tick limit)).map Intent.delta = l.map Intent.delta := by
  simpa only [List.map_map, Function.comp_def, Intent.essence] using congrArg (List.map fun e => e.2.2.2) (tick_essence limit l)

theorem viewSettled_tickBlocks {s : State} (h : ViewSettled s) (im : Image) : ViewSettled (tickBlocks im s) := by
  obtain ⟨hagrees, hrecorded⟩ := h
  refine ⟨excessAgrees_of_sameSides hagrees rfl rfl ⟨rfl, rfl, rfl, tick_deltas _ _, fun im' => ?_, fun im' => ?_⟩, fun p hp => ?_⟩
  · simp [tickBlocks, Peer.tick_terms]
  · simp [tickBlocks, Peer.tick_terms]
  · obtain ⟨q, hq, rfl⟩ := List.mem_map.1 hp
    rw [(Peer.tick_kept im.silenceLimit q).2.2.2]
    exact hrecorded q hq

/-! ### The invariant under each operation -/

theorem setState_deltas (t : IntentTable) (id : IntentId) (st : IntentState) :
    (t.setState id st).open_.map Intent.delta = t.open_.map Intent.delta := by
  simpa only [List.map_map, Function.comp_def, Intent.essence] using congrArg (List.map fun e => e.2.2.2) (setState_essence t id st)

theorem viewSettled_takeFrame {s : State} (h : ViewSettled s) {im : Image} (him : s.image = some im) {f : Frame}
    (hvalid : f.body.valid = true) : ViewSettled (takeFrame im f s) := by
  unfold takeFrame
  split
  · split
    · have hquieted : ViewSettled (quieted im s) := viewSettled_left h ⟨rfl, rfl, rfl, rfl, rfl⟩
      cases hfind : s.intents.open_.find? fun it => it.state == .unannounced with
      | none => rwa [enterQuiet_of_none hfind]
      | some it =>
        rw [enterQuiet_of_some hfind]
        exact viewSettled_cancelIntent (s := quieted im s) him hquieted.2 im it
    · exact h
  · split
    case h_1 p hfind =>
      have hp : p.RecordsProper := h.2 p (List.mem_of_find?_eq_some hfind)
      rw [← PeerTable.number_of_find hfind] at hfind
      exact viewSettled_putPeer h him hfind (Peer.take_number p f) (Peer.take_proper hp hvalid)
    case h_2 =>
      refine viewSettled_left h ⟨by simp, by simp, by simp, by simp, ?_⟩
      unfold takeStray
      split <;> rfl

theorem viewSettled_startAttempt {s : State} (h : ViewSettled s) {im' : Image} (him : s.image = some im') (im : Image) (n : Notice) :
    ViewSettled (startAttempt im n s) := by
  unfold startAttempt
  split
  · split
    · split
      · exact h
      · exact viewSettled_cancelIntent him h.2 im _
    · exact h
  all_goals exact h

theorem viewSettled_complete {s : State} (h : ViewSettled s) (im : Image) (n : Notice) (rest : List Notice) :
    ViewSettled (complete im n rest s) := by
  unfold complete
  dsimp only
  split
  · split <;> exact h
  · split
    · split
      · exact viewSettled_left h ⟨rfl, rfl, rfl, setState_deltas s.intents _ _, rfl⟩
      · exact h
    · exact h
  all_goals exact h

theorem viewSettled_applyArrival {s : State} (h : ViewSettled s) {im' : Image} (him : s.image = some im') (im : Image)
    (unit : UnitId) : ViewSettled (applyArrival im unit s) := by
  unfold applyArrival
  split
  · exact viewSettled_settle (im := im') (by simpa using him) (by simpa [RecordedIntentsProper] using h.2)
  · exact h
  · exact viewSettled_left h ⟨rfl, rfl, rfl, rfl, rfl⟩

theorem viewSettled_applyDeparture {s : State} (h : ViewSettled s) {im' : Image} (him : s.image = some im') (im : Image)
    (r : UnitRecord) : ViewSettled (applyDeparture im r s) := by
  unfold applyDeparture
  split_ifs
  · exact viewSettled_left h ⟨rfl, rfl, rfl, rfl, rfl⟩
  · exact viewSettled_left h ⟨rfl, rfl, rfl, rfl, rfl⟩
  · exact h
  · exact viewSettled_settle (im := im') (by simpa using him) (by simpa [RecordedIntentsProper] using h.2)

theorem viewSettled_resetAll (s : State) : ViewSettled (resetAll s) :=
  ⟨rfl, fun _ hp => absurd hp (List.not_mem_nil)⟩

theorem recorded_fresh (im : Image) : ∀ p ∈ im.expectedPeers.map Peer.fresh, p.RecordsProper := by
  intro p hp
  obtain ⟨n, -, rfl⟩ := List.mem_map.1 hp
  exact ⟨Nat.zero_le _, List.nodup_nil⟩

/-- Every change keeps the limit-excess state in agreement with the view (R82). -/
theorem Changes.keeps_viewSettled {s u : State} (h : ViewSettled s) (hu : Changes s u) : ViewSettled u := by
  have hrecorded := h.2
  cases hu with
  | same => exact h
  | reset => exact viewSettled_resetAll s
  | restart panel switch => exact viewSettled_left (viewSettled_resetAll s) ⟨rfl, rfl, rfl, rfl, rfl⟩
  | left panel switch => exact viewSettled_left h ⟨rfl, rfl, rfl, rfl, rfl⟩
  | control => exact h
  | loaded im c fresh => exact viewSettled_settle (im := im) rfl (recorded_fresh im)
  | listened =>
    unfold listenOver
    dsimp only
    split
    · exact h
    · exact viewSettled_left h ⟨rfl, rfl, rfl, rfl, rfl⟩
  | joined => exact viewSettled_left h ⟨rfl, rfl, rfl, rfl, rfl⟩
  | reportRead => exact viewSettled_left h ⟨by simp, by simp, by simp, by simp, by simp⟩
  | arrival => exact h
  | departure => exact h
  | withdrawn => exact h
  | parked im r it hcloses =>
    exact viewSettled_freed (im' := im) (by simpa using hcloses.image) (by simpa [RecordedIntentsProper] using hrecorded) im _
  | abandoned im r it hcloses =>
    exact viewSettled_freed (im' := im) (by simpa using hcloses.image) (by simpa [RecordedIntentsProper] using hrecorded) im _
  | departed im r it hcloses =>
    exact viewSettled_freed (im' := im) (by simpa using hcloses.image) (by simpa [RecordedIntentsProper] using hrecorded) im _
  | stayed im r it hcloses =>
    exact viewSettled_freed (im' := im) (by simpa using hcloses.image) (by simpa [RecordedIntentsProper] using hrecorded) im _
  | forcedParked im r him =>
    exact viewSettled_settle (im := im) (by simpa using him) (by simpa [RecordedIntentsProper] using hrecorded)
  | forcedUnannounced im r it hcloses =>
    exact viewSettled_freed (im' := im) (by simpa using hcloses.image) (by simpa [RecordedIntentsProper] using hrecorded) im _
  | window im lo hi him =>
    exact viewSettled_left (viewSettled_settle (s := replaceWindow lo hi s) (im := im) him hrecorded) ⟨rfl, rfl, rfl, rfl, rfl⟩
  | switched => exact viewSettled_left h ⟨by simp, by simp, by simp, by simp, by simp⟩
  | plans => exact h
  | block => exact viewSettled_left h ⟨rfl, rfl, rfl, rfl, rfl⟩
  | panel lowered =>
    refine viewSettled_left h ⟨by simp, by simp, ?_, by simp, by simp⟩
    simp only [panelChanged, releaseHeld_fields]
    split <;> simp
  | restored im lane offset unit him =>
    exact viewSettled_settle (im := im) (by simpa using him) (by simpa [RecordedIntentsProper] using hrecorded)
  | evaluatedArrival im unit him => exact viewSettled_applyArrival h him im unit
  | evaluatedDeparture im r him => exact viewSettled_applyDeparture h him im r
  | waited => exact viewSettled_left h ⟨by simp, by simp, by simp, by simp, by simp⟩
  | livedOut id tag => exact viewSettled_left h ⟨rfl, rfl, rfl, setState_deltas s.intents id .overdue, rfl⟩
  | heartbeat => exact h
  | attempt im n rest him => exact viewSettled_startAttempt h him im n
  | collided => exact h
  | completed im n rest => exact viewSettled_complete h im n rest
  | line => exact h
  | frame im f him hvalid => exact viewSettled_takeFrame (s := lineJudged s) h him hvalid
  | silent im p him hfind =>
    exact viewSettled_putPeer h him hfind rfl (hrecorded p (List.mem_of_find?_eq_some hfind))
  | ticked im c => exact viewSettled_tickBlocks (s := { s with control := c }) h im

/-- Settles O57. -/
theorem viewSettledKept : Obligations.ViewSettledKept :=
  step_keeps (P := ViewSettled) (fun _ _ _ => Iff.rfl) fun _ _ h hu => hu.keeps_viewSettled h

end Sys2Proof.Machine
end

section
/-! PROOFS. The step, the tick of the time base, reset and start-up: what the part does with a command and on its own. -/

namespace Sys2Proof.Machine

open Sys2Proof.Safety

/-- An event of the part's own runs where its condition holds. -/
theorem event_of_iff {s : State} {condition : Bool} {P : Prop} [Decidable P] (effect : State → State) (h : condition = true ↔ P) :
    event s condition effect = .next (if P then effect s else s) := by
  unfold event
  exact congrArg Host.Outcome.next (if_congr h rfl rfl)

/-! ### The step -/

/-- Settles O1, the definition of a step on a queue that is not empty. -/
theorem stepRunsFrontCommand : Obligations.StepRunsFrontCommand := fun _ _ _ => rfl

theorem arrivalDue_isSome_iff (s : State) :
    (arrivalDue s).isSome = true ↔ gateOpen s = true ∧ ∃ u, (taken s).map Entry.ask = some (.arrival u) := by
  unfold arrivalDue
  split_ifs with hgate
  · split
    case h_1 u hask => simp [hgate, hask]
    case h_2 hother => simpa [hgate] using hother
  · simp [hgate]

theorem departureDue_isSome_iff (s : State) :
    (departureDue s).isSome = true ↔ gateOpen s = true ∧ ∃ tag r, (taken s).map Entry.ask = some (.departure tag) ∧
      s.units.find tag = some r ∧ r.state = .parked := by
  unfold departureDue
  split_ifs with hgate
  · split
    case h_1 tag hask => cases hfind : s.units.find tag <;> simp [hgate, hask, hfind]
    case h_2 hother =>
      simp only [Option.isSome_none, Bool.false_eq_true, hgate, true_and, false_iff]
      rintro ⟨tag, -, hask, -⟩
      exact hother tag hask
  · simp [hgate]

/-! ### Timers that stop at their limit -/

theorem le_advance_iff (limit ms : Nat) : limit ≤ advance limit ms ↔ advance limit ms = limit := by
  unfold advance
  omega

theorem reachedLimit_advance (limit : Nat) (timer : Option Nat) :
    reachedLimit limit (timer.map (advance limit)) = true ↔ timer.map (advance limit) = some limit := by
  cases timer with
  | none => simp [reachedLimit]
  | some ms => simpa [reachedLimit] using le_advance_iff limit ms

theorem Loader.waitedOut_tick (l : Loader) : l.tick.waitedOut = true ↔ l.tick = .waiting 20 := by
  cases l with
  | waiting ms => simpa [Loader.tick, Loader.waitedOut] using le_advance_iff 20 ms
  | off | trying => simp [Loader.tick, Loader.waitedOut]

theorem Entry.waitedOut_tick (im : Image) (e : Entry) :
    (e.tick im.waitMs).waitedOut im = (!(e.tick im.waitMs).expired && (e.tick im.waitMs).timer == im.waitMs) := by
  unfold Entry.tick
  split
  case isTrue h => simp [Entry.waitedOut, h]
  case isFalse h => simp [Entry.waitedOut, h, le_advance_iff, beq_eq_decide]

theorem Intent.livedOut_tick (im : Image) (it : Intent) :
    (it.tick im.lifetimeMs).livedOut im = ((it.tick im.lifetimeMs).state == .announced im.lifetimeMs) := by
  unfold Intent.tick
  cases hstate : it.state with
  | announced ms => simp [Intent.livedOut, le_advance_iff, beq_eq_decide]
  | unannounced | overdue => simp [Intent.livedOut, hstate, beq_eq_decide]

theorem Peer.silentTooLong_tick (im : Image) (p : Peer) :
    (p.tick im.silenceLimit).silentTooLong im = ((p.tick im.silenceLimit).silence == .running im.silenceLimit) := by
  unfold Peer.tick
  cases hsilence : p.silence with
  | running ms => simp [Peer.silentTooLong, le_advance_iff, beq_eq_decide]
  | stopped | atLimit => simp [Peer.silentTooLong, hsilence, beq_eq_decide]

theorem filter_map_congr {α : Type} {f : α → α} {p q : α → Bool} (h : ∀ a, p (f a) = q (f a)) (l : List α) :
    (l.map f).filter p = (l.map f).filter q := by
  refine List.filter_congr fun a ha => ?_
  obtain ⟨b, -, rfl⟩ := List.mem_map.1 ha
  exact h b

/-- What comes due at a tick: the expiry of every timer that stands at its limit after it. -/
theorem dueBlocks_tickBlocks (im : Image) (s : State) :
    dueBlocks im (tickBlocks im s) =
      (if s.control.listen.map (advance im.listenInterval) = some im.listenInterval then [Instr.listenExpiry] else []) ++
        (if s.bus.heartbeat.map (advance im.heartbeat) = some im.heartbeat then [Instr.heartbeatExpiry] else []) ++
        (((s.intake.map (Entry.tick im.waitMs)).filter fun e => !e.expired && e.timer == im.waitMs).map
          fun e => Instr.waitLimitExpiry e.tag) ++
        (((s.intents.open_.map (Intent.tick im.lifetimeMs)).filter fun it => it.state == .announced im.lifetimeMs).map
          fun it => Instr.lifetimeExpiry it.id) ++
        ((s.peers.peers.map (Peer.tick im.silenceLimit)).filter fun p => p.silence == .running im.silenceLimit).map
          fun p => Instr.silenceExpiry p.number := by
  unfold dueBlocks tickBlocks
  dsimp only
  rw [filter_map_congr (q := fun e : Entry => !e.expired && e.timer == im.waitMs) (Entry.waitedOut_tick im),
    filter_map_congr (q := fun it : Intent => it.state == .announced im.lifetimeMs) (Intent.livedOut_tick im),
    filter_map_congr (q := fun p : Peer => p.silence == .running im.silenceLimit) (Peer.silentTooLong_tick im)]
  simp only [reachedLimit_advance]

theorem dueControl_tick (c : Control) :
    dueControl { c with loader := c.loader.tick } =
      (if c.ticked then [] else [Instr.rdyFirstTick]) ++ if c.loader.tick = .waiting 20 then [Instr.loadRetry] else [] := by
  unfold dueControl
  simp only [Loader.waitedOut_tick]

theorem step_of_empty {s : State} (h : s.pending = []) :
    step s = .next (if s.control.held then s
      else if (arrivalDue s).isSome then { s with pending := [.evaluateArrival] }
      else if (departureDue s).isSome then { s with pending := [.evaluateDeparture] }
      else tick s) := by
  unfold step idle evaluationDue
  rw [h]
  dsimp only
  split_ifs <;> rfl

/-- Settles O2: the evaluation that is due, else a tick, by whether there is an image. -/
theorem emptyQueueStep : Obligations.EmptyQueueStep := by
  refine ⟨fun s => ⟨arrivalDue_isSome_iff s, departureDue_isSome_iff s⟩, fun s hpending => ?_⟩
  rw [step_of_empty hpending]
  congr 4
  cases him : s.image with
  | none =>
    simp only [tick, him, dueControl_tick]
    rfl
  | some im =>
    simp only [tick, him, dueControl_tick, dueBlocks_tickBlocks, List.append_assoc, ← Nat.mul_comm im.waitLimit,
      ← Nat.mul_comm im.lifetime]
    rfl

theorem execBadRequest_eq (bytes : List Byte) (s : State) :
    exec (.badRequest bytes) s = if wellFramed bytes then .next s else serveCode s fun t => (.badRequest, t) := rfl

theorem exec_restart (panel switch : Bool) (s : State) : exec (.restart panel switch) s =
    .next (if Received s then leave panel switch (resetAll s) else s) :=
  event_of_iff (fun s => leave panel switch (resetAll s)) (received_iff s)

theorem exec_readPlan (plan first : Byte) (s : State) : exec (.readPlan plan first) s =
    serve s fun t => (readReply t (planReply t plan first), { t with fresh := t.fresh + 1 }) := rfl

/-- Settles O3: a request is served, but for RESTART, which runs where it is received; and neither is done where none is received. -/
theorem requestNotReceived : Obligations.RequestNotReceived := by
  intro c s hrequest hnot
  cases c
  case reset | leaveReset | rdyFirstTick | loadTryFailed | loadRetry | imageLoadEnd | listenExpiry | notReadySelection | switchEdge
    | panelChange | evaluateArrival | evaluateDeparture | waitLimitExpiry | lifetimeExpiry | heartbeatExpiry | silenceExpiry
    | attemptStart | collision | attemptComplete | invalidFrame | receiveSummary | receiveIntent | receiveSettle | receiveRetract
    | switchNegated | selectionBegin | lineIdle => cases hrequest
  case restart panel switch =>
    rw [exec_restart, if_neg hnot]
  case badRequest bytes =>
    rw [execBadRequest_eq, serveCode_not_received s _ hnot, ite_self]
  case null | readStatus | readShipView | readLane | readUnit | readPeer | readIntake | readReport =>
    exact serve_not_received s _ hnot
  case readPlan plan first =>
    rw [exec_readPlan, serve_not_received s _ hnot]
  all_goals exact serveCode_not_received s _ hnot

/-! ### Reset and leaving it -/

/-- Settles O4. -/
theorem resetAndRestart : Obligations.ResetAndRestart := by
  intro s
  refine ⟨rfl, fun panel switch hreceived => ?_⟩
  rw [exec_restart, if_pos hreceived]
  rfl

theorem exec_rdyFirstTick (s : State) : exec .rdyFirstTick s =
    event s (!s.control.held && !s.control.ticked)
      fun s => { s with control := { s.control with ticked := true }, port := { s.port with rdy := true } } := rfl

/-- Settles O5. -/
theorem leaveResetAndFirstTick : Obligations.LeaveResetAndFirstTick := by
  intro panel switch s
  refine ⟨rfl, ?_⟩
  rw [exec_rdyFirstTick, event_of_iff (P := s.control.held = false ∧ s.control.ticked = false) _ (by simp)]

theorem reachedLimit_some (limit ms : Nat) : reachedLimit limit (some ms) = true ↔ ¬ ms < limit := by
  simp [reachedLimit]

theorem exec_listenExpiry_of_none {s : State} (h : s.image = none) : exec .listenExpiry s = .next s := by
  show execListenExpiry s = _
  rw [execListenExpiry, h]

theorem exec_listenExpiry_of_image {s : State} {im : Image} (h : s.image = some im) : exec .listenExpiry s =
    .next (if s.control.station = .listening ∧ reachedLimit im.listenInterval s.control.listen = true then listenOver s else s) := by
  show execListenExpiry s = _
  rw [execListenExpiry, h]
  exact event_of_iff _ (by simp)

theorem listenOver_eq (s : State) : listenOver s =
    if s.control.restoreMark then
      { s with control := { s.control with station := .restoring, restoreMark := false, listen := none } }
    else
      { s with
        control := { s.control with station := .joined, listen := none }
        bus := { s.bus.askSummary with heartbeat := some 0 }
        intake := s.intake.map Entry.release } := rfl

/-- Settles O9, by whether there is an image, and whether the timer has reached the interval. -/
theorem listenExpiryOutcome : Obligations.ListenExpiryOutcome := by
  refine ⟨fun s hnot => ?_, fun ms s im him hstation hlisten => ?_⟩
  · cases him : s.image with
    | none => exact exec_listenExpiry_of_none him
    | some im =>
      rw [exec_listenExpiry_of_image him, if_neg]
      rintro ⟨hstation, hreached⟩
      rcases hnot with hnone | hnot | hlisten
      · simp [hnone] at him
      · exact hnot hstation
      · simp [hlisten, reachedLimit] at hreached
  · rw [exec_listenExpiry_of_image him]
    simp only [hstation, hlisten, reachedLimit_some, true_and, ite_not, Image.listenInterval, listenOver_eq]

/-- Settles O60. -/
theorem invariantsHoldAtReset : Obligations.InvariantsHoldAtReset :=
  ⟨bounds_resetAll State.reset, ⟨tagsDistinct_resetAll State.reset, rfl⟩, viewSettled_resetAll State.reset,
    lanesProper_resetAll State.reset,
    (intentsProper_iff State.reset).2 ⟨matchedWithin_reset.1, tagsDistinct_resetAll State.reset, matchedWithin_reset.2⟩⟩

end Sys2Proof.Machine
end

section
/-! PROOFS. The load tries (R173), and what the operations of a try put on the two lines of the link. -/

namespace Sys2Proof.Machine

open Sys2Proof.Safety

/-! ### The tries -/

theorem loadTrying_iff (s : State) :
    s.loadTrying = true ↔ s.control.held = false ∧ s.control.station = .loading ∧ s.control.loader = .trying := by
  simp [State.loadTrying, and_assoc]

theorem exec_loadTryFailed (lost : Unacknowledged) (s : State) : exec (.loadTryFailed lost) s =
    .next (if s.control.held = false ∧ s.control.station = .loading ∧ s.control.loader = .trying then tryFailed lost s else s) :=
  event_of_iff _ (loadTrying_iff s)

theorem tryFailed_eq (lost : Unacknowledged) {s : State} (h : s.control.station = .loading) : tryFailed lost s =
    { s with
      control := { s.control with
        tries := s.control.tries + 1
        link := freeLink ++ tryCut lost
        station := if s.control.tries + 1 < 4 then .loading else .faulted
        fault := if s.control.tries + 1 < 4 then s.control.fault else some .noImage
        loader := if s.control.tries + 1 < 4 then .waiting 0 else .off } } := by
  unfold tryFailed
  dsimp only [Config.maxTries]
  rw [← h]
  split_ifs <;> rfl

theorem exec_loadRetry (s : State) : exec .loadRetry s =
    .next (if s.control.held = false ∧ s.control.station = .loading ∧ s.control.loader.waitedOut = true then beginTry s else s) :=
  event_of_iff _ (by simp [retryDue, and_assoc])

theorem exec_loadRetry_of_waiting {s : State} {ms : Nat} (hheld : s.control.held = false) (hstation : s.control.station = .loading)
    (hloader : s.control.loader = .waiting ms) : exec .loadRetry s = .next (if 20 ≤ ms then beginTry s else s) := by
  rw [exec_loadRetry]
  simp only [hheld, hstation, hloader, Loader.waitedOut, true_and, decide_eq_true_eq, Config.retryWait]

/-! ### What an operation puts on the lines -/

theorem mapIdx_replicate_true (count : Nat) (memory : List Bool) :
    (List.replicate count true).mapIdx (fun i bit => bit && memory.getD i true) =
      (List.range count).map fun k => memory.getD k true := by
  refine List.ext_getElem (by simp) fun i _ _ => ?_
  simp

theorem lineBits_pulses (count : Nat) (memory : List Bool) :
    (LinkOp.pulses count).lineBits memory = (List.range count).map fun k => memory.getD k true :=
  mapIdx_replicate_true count memory

theorem lineBits_takeLast_eq (memory : List Bool) :
    LinkOp.takeLast.lineBits memory = (List.range 9).map fun k => memory.getD k true :=
  mapIdx_replicate_true 9 memory

theorem lineBits_send_eq (b : Byte) (memory : List Bool) : (LinkOp.send b).lineBits memory =
    ((List.range 8).map fun k => b.getLsbD (7 - k) && memory.getD k true) ++ [memory.getD 8 true] := by
  simp [LinkOp.lineBits, LinkOp.loaderBits, ninePulses, msbFirst, List.range_succ]

/-- Byte by byte, nine bits to a byte. -/
theorem lineBits_takeAcked_eq (count : Nat) (memory : List Bool) : (LinkOp.takeAcked count).lineBits memory =
    (List.range count).flatMap fun i => ((List.range 8).map fun k => memory.getD (9 * i + k) true) ++ [false] := by
  show (List.replicate count (List.replicate 8 true ++ [false])).flatten.mapIdx _ = _
  induction count with
  | zero => rfl
  | succ n ih =>
    have hlength : (List.replicate n (List.replicate 8 true ++ [false])).flatten.length = 9 * n := by
      simp [Nat.mul_comm]
    rw [List.replicate_succ', List.flatten_append, List.mapIdx_append, ih, hlength]
    simp [List.range_succ, List.replicate, Nat.add_comm]

theorem flatMap_clockPulse_map {α : Type} (f : α → Bool) (l : List α) :
    (l.map f).flatMap clockPulse = l.flatMap fun a => clockPulse (f a) :=
  List.flatMap_map ..

theorem linkLines_singleton (clockHigh : Bool) (op : LinkOp) (memory : List Bool) :
    linkLines clockHigh [(op, memory)] = op.lines clockHigh memory := by
  rw [linkLines_cons, linkLines, List.append_nil]

/-- The acknowledge bit of the last byte sent is held low unless the try fails there. -/
theorem besideMemory_send (fails : Bool) (image : List Byte) (b : Byte) (rest : List LinkOp) :
    besideMemory fails image (.send b :: rest) =
      (.send b, List.replicate 8 true ++ [fails && decide (rest = [])]) :: besideMemory fails image rest := by
  rw [besideMemory]
  cases rest <;> simp

theorem LinkOp.leavesHigh_eq (op : LinkOp) : op.leavesHigh = (op == .stop) := by
  cases op <;> rfl

theorem LinkOp.events_eq (op : LinkOp) (memory : List Bool) : op.events memory =
    match op with
    | .start => [.start]
    | .stop => [.stop]
    | .pulses count => (List.range count).map fun k => .bit (memory.getD k true)
    | .send b => ((List.range 8).map fun k => .bit (b.getLsbD (7 - k) && memory.getD k true)) ++ [.bit (memory.getD 8 true)]
    | .takeAcked count => (List.range count).flatMap fun i =>
      ((List.range 8).map fun k => .bit (memory.getD (9 * i + k) true)) ++ [.bit false]
    | .takeLast => (List.range 9).map fun k => .bit (memory.getD k true) := by
  cases op with
  | start | stop => rfl
  | pulses count => simp [LinkOp.events, lineBits_pulses]
  | takeLast => simp [LinkOp.events, lineBits_takeLast_eq]
  | send b => simp [LinkOp.events, lineBits_send_eq]
  | takeAcked count => simp [LinkOp.events, lineBits_takeAcked_eq, List.map_flatMap, Function.comp_def]

/-- Settles O6, part by part: the two commands of a try, the lines of each operation, what the memory does, and what the lines read. -/
theorem loadTries : Obligations.LoadTries := by
  refine ⟨fun lost s => ?_, fun ms s hheld hstation hloader => ?_, fun s hnot => ?_, fun clockHigh memory => ?_,
    fun clockHigh part rest => ⟨rfl, ?_⟩, fun _ => rfl, fun fails image op rest => ⟨rfl, ?_⟩, fun parts => ?_⟩
  · rw [exec_loadTryFailed]
    refine congrArg Host.Outcome.next (ite_congr rfl (fun h => ?_) fun _ => rfl)
    refine (tryFailed_eq lost h.2.1).trans ?_
    cases lost <;> rfl
  · exact exec_loadRetry_of_waiting hheld hstation hloader
  · rw [exec_loadRetry, if_neg]
    rintro ⟨hheld, hstation, hwaited⟩
    rcases hnot with h | h | h
    · simp [h] at hheld
    · exact h hstation
    · cases hloader : s.control.loader with
      | waiting ms => exact h ms hloader
      | off | trying => simp [hloader, Loader.waitedOut] at hwaited
  · simp only [linkLines_singleton]
    refine ⟨rfl, rfl, fun b => ?_, ?_, fun count => ⟨?_, ?_⟩⟩
    · show ((LinkOp.send b).lineBits memory).flatMap clockPulse = _
      rw [lineBits_send_eq, List.flatMap_append, flatMap_clockPulse_map, List.flatMap_singleton]
      rfl
    · show (LinkOp.takeLast.lineBits memory).flatMap clockPulse = _
      rw [lineBits_takeLast_eq, flatMap_clockPulse_map]
      rfl
    · show ((LinkOp.pulses count).lineBits memory).flatMap clockPulse = _
      rw [lineBits_pulses, flatMap_clockPulse_map]
      rfl
    · show ((LinkOp.takeAcked count).lineBits memory).flatMap clockPulse = _
      rw [lineBits_takeAcked_eq, List.flatMap_assoc]
      simp only [List.flatMap_append, flatMap_clockPulse_map, List.flatMap_singleton]
      rfl
  · rw [linkLines_singleton, ← LinkOp.leavesHigh_eq]
    rfl
  · cases op with
    | send b => exact besideMemory_send fails image b rest
    | pulses | start | stop | takeAcked | takeLast => rfl
  · rw [linkEvents_linkLines parts true ⟨true, true⟩ fun _ => rfl]
    refine List.flatMap_congr fun x _ => ?_
    exact LinkOp.events_eq x.1 x.2

end Sys2Proof.Machine
end

section
/-! PROOFS. The configuration image (R174, R175, section 11.4): the ranges of its sections, the first one with a fault, the image load,
and the settings of an image that passed. -/

namespace Sys2Proof.Machine

open Sys2Proof.Safety

/-! ### The first check that fails -/

/-- The number of the first check that fails, counted from `k`. -/
def firstFault : Nat → List Bool → Option Nat
  | _, [] => none
  | k, b :: bs => if b then firstFault (k + 1) bs else some k

/-- Checks that decide the conditions of a list, each where those before it hold. -/
inductive Decides : List Bool → List Prop → Prop
  | nil : Decides [] []
  | cons {b : Bool} {p : Prop} {bs : List Bool} {ps : List Prop} (head : b = true ↔ p) (rest : p → Decides bs ps) :
      Decides (b :: bs) (p :: ps)

theorem firstFault_ge {k n : Nat} {bs : List Bool} (h : firstFault k bs = some n) : k ≤ n := by
  induction bs generalizing k with
  | nil => cases h
  | cons b bs ih =>
    unfold firstFault at h
    split at h
    · exact Nat.le_of_succ_le (ih h)
    · exact Nat.le_of_eq (Option.some.inj h)

theorem firstFault_eq_none_iff {bs : List Bool} {ps : List Prop} (h : Decides bs ps) (k : Nat) :
    firstFault k bs = none ↔ ∀ p ∈ ps, p := by
  induction h generalizing k with
  | nil => simp [firstFault]
  | @cons b p bs ps head rest ih =>
    unfold firstFault
    split
    case isTrue hb =>
      have hp := head.1 hb
      rw [ih hp, List.forall_mem_cons, and_iff_right hp]
    case isFalse hb =>
      have hp := mt head.2 hb
      simp only [List.forall_mem_cons, hp, false_and, reduceCtorEq]

theorem firstFault_eq_some_iff {bs : List Bool} {ps : List Prop} (h : Decides bs ps) (k n : Nat) :
    firstFault k bs = some (k + n) ↔ ∃ p, ps[n]? = some p ∧ ¬ p ∧ ∀ q ∈ ps.take n, q := by
  induction h generalizing k n with
  | nil => simp [firstFault]
  | @cons b p bs ps head rest ih =>
    unfold firstFault
    split
    case isTrue hb =>
      have hp := head.1 hb
      cases n with
      | zero =>
        have hnot : firstFault (k + 1) bs ≠ some k := fun e => Nat.not_succ_le_self k (firstFault_ge e)
        simpa [hp] using hnot
      | succ n =>
        rw [show k + (n + 1) = k + 1 + n by omega, ih hp]
        simp only [List.getElem?_cons_succ, List.take_succ_cons, List.forall_mem_cons, hp, true_and]
    case isFalse hb =>
      have hp := mt head.2 hb
      cases n with
      | zero => exact iff_of_true (by simp) ⟨p, rfl, hp, by simp⟩
      | succ n => simp [List.forall_mem_cons, hp, -List.mem_cons]

/-! ### The ranges of the sections (section 11.4) -/

theorem between_iff (lo hi x : Int) : between lo hi x = true ↔ lo ≤ x ∧ x ≤ hi := by
  simp [between]

/-- The STATION section (R2, R21, R49, R87, R119, R123). -/
def StationInRange (image : List Byte) : Prop :=
  let u := field image
  u 7 1 ≤ 7 ∧ 1 ≤ u 8 1 ∧ u 8 1 ≤ 24 ∧ 2 ≤ u 9 1 ∧ u 9 1 ≤ 10 ∧ u 10 2 ≤ 2500 ∧ 5 ≤ u 12 4 ∧ u 12 4 ≤ 307200 ∧
    10 ≤ u 16 2 ∧ u 16 2 ≤ 900 ∧ 30 ≤ u 18 2 ∧ u 18 2 ≤ 1800 ∧ 250 ≤ u 20 2 ∧ u 20 2 ≤ 4000 ∧ 2 ≤ u 22 1 ∧ u 22 1 ≤ 8 ∧
    u 24 1 ≤ 2 ∧ u 25 1 ≤ 2 ∧ u 26 1 ≤ 1 ∧ u 27 1 ≤ 1

/-- The lane descriptor at a place of the image (R1). -/
def LaneInRange (image : List Byte) (a : Nat) : Prop :=
  let u := field image
  let w := fieldSigned image
  u a 2 ≤ 2500 ∧ 100 ≤ u (a + 2) 2 ∧ u (a + 2) 2 ≤ 2000 ∧ u (a + 2) 2 ≤ u a 2 ∧
    -200 ≤ w (a + 4) 2 ∧ w (a + 4) 2 ≤ 200 ∧ u (a + 6) 2 ≤ 400 ∧ 20 ≤ u (a + 8) 1 ∧ u (a + 8) 1 ≤ 40 ∧
    20 ≤ u (a + 9) 1 ∧ u (a + 9) 1 ≤ 60 ∧ 20 ≤ u (a + 10) 1 ∧ u (a + 10) 1 ≤ u (a + 9) 1 ∧
    10 ≤ u (a + 11) 1 ∧ u (a + 11) 1 ≤ 200 ∧ u (a + 12) 1 ≤ 1 ∧ u (a + 13) 2 ≤ u (a + 2) 2

/-- K and the matrix (R48). -/
def ApartInRange (image : List Byte) : Prop :=
  let row := fun i : Nat => byteField image (390 + i)
  field image 388 2 ≤ 300 ∧ (∀ i < 7, (row i).getLsbD 7 = false) ∧ ∀ i < 7, ∀ j < 7, (row i).getLsbD j = (row j).getLsbD i

/-- The LIMITS section (R69, R70). -/
def LimitsInRange (image : List Byte) : Prop :=
  let u := field image
  let w := fieldSigned image
  1 ≤ u 397 4 ∧ u 397 4 ≤ 2457600 ∧ u 401 4 ≤ 983040000 ∧ 1 ≤ u 405 4 ∧ u 405 4 ≤ 2088960000 ∧
    w 409 6 ≤ w 415 6 ∧ -12288000000 ≤ w 409 6 ∧ w 415 6 ≤ 12288000000

/-- The bound set at a place of the image (R72). -/
def BoundsInRange (image : List Byte) (a : Nat) : Prop :=
  let u := field image
  let w := fieldSigned image
  u a 4 ≤ 307200 ∧
    -122880000 ≤ w (a + 4) 4 ∧ w (a + 4) 4 ≤ w (a + 8) 4 ∧ w (a + 8) 4 ≤ 122880000 ∧
    -1536000000 ≤ w (a + 12) 4 ∧ w (a + 12) 4 ≤ w (a + 16) 4 ∧ w (a + 16) 4 ≤ 1536000000 ∧
    u (a + 20) 4 ≤ u (a + 24) 4 ∧ u (a + 24) 4 ≤ 261120000

/-- The profile at a place of the image (R141). -/
def ProfileInRange (image : List Byte) (a : Nat) : Prop :=
  let u := field image
  u a 1 < 32 ∧ u (a + 2) 1 ≤ 1 ∧ u (a + 3) 2 ≤ 500

/-- The plan entry at a place of the image (R142). -/
def EntryInRange (image : List Byte) (a : Nat) : Prop :=
  let u := field image
  u a 1 ≤ 1 ∧ u (a + 1) 1 ≤ 6 ∧ (u (a + 2) 1 ≤ 15 ∨ u (a + 2) 1 = 0xFF)

/-- The ranges of the seven sections, in the image's order. -/
def sectionRanges (image : List Byte) : List Prop :=
  [StationInRange image, ∀ n < field image 8 1, LaneInRange image (28 + 15 * n), ApartInRange image, LimitsInRange image,
    ∀ n < 8, BoundsInRange image (421 + 28 * n), ∀ n < 16, ProfileInRange image (645 + 7 * n),
    (∀ n < 24, EntryInRange image (757 + 3 * n)) ∧ field image 829 1 ≤ 15]

theorem stationOk_iff (image : List Byte) : stationOk (stationSection image) = true ↔ StationInRange image := by
  unfold stationOk stationSection StationInRange
  simp (disch := omega) only [field_slice, Bool.and_eq_true, between_iff, Nat.reduceAdd]
  omega

theorem laneOk_iff (image : List Byte) (a : Nat) : laneOk ((image.drop a).take 15) = true ↔ LaneInRange image a := by
  unfold laneOk LaneInRange
  simp (disch := omega) only [field_slice, fieldSigned_slice, Bool.and_eq_true, between_iff, decide_eq_true_eq, Nat.add_zero]
  omega

theorem limitOk_iff (image : List Byte) : limitOk (limitSection image) = true ↔ LimitsInRange image := by
  unfold limitOk limitSection LimitsInRange windowAcceptable windowMax
  simp (disch := omega) only [field_slice, fieldSigned_slice, Bool.and_eq_true, between_iff, decide_eq_true_eq,
    Nat.reduceAdd]
  omega

theorem boundOk_iff (image : List Byte) (a : Nat) : boundOk ((image.drop a).take 28) = true ↔ BoundsInRange image a := by
  unfold boundOk BoundsInRange
  simp (disch := omega) only [field_slice, fieldSigned_slice, Bool.and_eq_true, between_iff, decide_eq_true_eq, Nat.add_zero]
  omega

theorem profileOk_iff (image : List Byte) (a : Nat) : profileOk ((image.drop a).take 7) = true ↔ ProfileInRange image a := by
  unfold profileOk ProfileInRange
  simp (disch := omega) only [field_slice, Bool.and_eq_true, between_iff, decide_eq_true_eq, Nat.add_zero]
  omega

theorem rawEntry_slice (image : List Byte) (a : Nat) :
    rawEntry ((image.drop a).take 3) = ⟨byteField image a, byteField image (a + 1), byteField image (a + 2)⟩ := by
  simp (disch := omega) only [rawEntry, byteField_slice, Nat.add_zero]

theorem byte_eq_iff (b c : Byte) : b = c ↔ b.toNat = c.toNat := BitVec.toNat_inj.symm

theorem entryOk_iff (image : List Byte) (a : Nat) :
    (rawEntry ((image.drop a).take 3)).acceptable = true ↔ EntryInRange image a := by
  rw [rawEntry_slice]
  simp [RawEntry.acceptable, EntryInRange, field_one, byte_eq_iff, and_assoc]

/-! ### Chunks of an image -/

theorem forall_mem_take_chunks_iff {size count k : Nat} (hk : k ≤ count) (bytes : List Byte) (P : List Byte → Prop) :
    (∀ x ∈ (chunks size count bytes).take k, P x) ↔ ∀ n < k, P ((bytes.drop (size * n)).take size) := by
  constructor
  · intro h n hn
    refine h _ (List.mem_of_getElem? (i := n) ?_)
    rw [List.getElem?_take_of_lt hn, chunks_getElem?, if_pos (by omega)]
  · intro h x hx
    obtain ⟨n, hn⟩ := List.getElem?_of_mem hx
    rw [List.getElem?_take] at hn
    split at hn
    case isTrue hlt =>
      rw [chunks_getElem?, if_pos (by omega)] at hn
      exact Option.some.inj hn ▸ h n hlt
    case isFalse => cases hn

theorem forall_mem_chunks_iff (size count : Nat) (bytes : List Byte) (P : List Byte → Prop) :
    (∀ x ∈ chunks size count bytes, P x) ↔ ∀ n < count, P ((bytes.drop (size * n)).take size) := by
  have h := forall_mem_take_chunks_iff (Nat.le_refl count) bytes P (size := size)
  rwa [List.take_of_length_le (by simp)] at h

theorem getD_map_take_chunks {α : Type} {size count k n : Nat} (hn : n < k) (hk : k ≤ count) (bytes : List Byte)
    (f : List Byte → α) (d : α) :
    (((chunks size count bytes).take k).map f).getD n d = f ((bytes.drop (size * n)).take size) := by
  rw [List.getD_eq_getElem?_getD, List.getElem?_map, List.getElem?_take_of_lt hn, chunks_getElem?, if_pos (by omega)]
  rfl

theorem getD_map_chunks {α : Type} {size count n : Nat} (hn : n < count) (bytes : List Byte) (f : List Byte → α) (d : α) :
    ((chunks size count bytes).map f).getD n d = f ((bytes.drop (size * n)).take size) := by
  have h := getD_map_take_chunks (size := size) hn (Nat.le_refl count) bytes f d
  rwa [List.take_of_length_le (by simp)] at h

theorem lanesOk_iff {image : List Byte} (h : StationInRange image) :
    ((laneSection image).take (field (stationSection image) 1 1)).all laneOk = true ↔
      ∀ n < field image 8 1, LaneInRange image (28 + 15 * n) := by
  obtain ⟨-, -, hcount, -⟩ := h
  rw [show field (stationSection image) 1 1 = field image 8 1 from field_slice image 7 21 1 1 (by omega), laneSection,
    List.all_eq_true, forall_mem_take_chunks_iff hcount]
  simp only [List.drop_drop, laneOk_iff]

theorem boundsOk_iff (image : List Byte) :
    (boundSection image).all boundOk = true ↔ ∀ n < 8, BoundsInRange image (421 + 28 * n) := by
  rw [boundSection, List.all_eq_true, forall_mem_chunks_iff]
  simp only [List.drop_drop, boundOk_iff]

theorem profilesOk_iff (image : List Byte) :
    (profileSection image).all profileOk = true ↔ ∀ n < 16, ProfileInRange image (645 + 7 * n) := by
  rw [profileSection, List.all_eq_true, forall_mem_chunks_iff]
  simp only [List.drop_drop, profileOk_iff]

theorem planChunk_eq (image : List Byte) {n : Nat} (h : n < 24) :
    ((planSection image).drop (3 * n)).take 3 = (image.drop (757 + 3 * n)).take 3 := by
  rw [planSection, List.drop_take, List.take_take, List.drop_drop, Nat.min_eq_left (by omega)]

theorem planOk_iff (image : List Byte) : planOk (planSection image) = true ↔
    (∀ n < 24, EntryInRange image (757 + 3 * n)) ∧ field image 829 1 ≤ 15 := by
  unfold planOk
  rw [Bool.and_eq_true, decide_eq_true_eq, List.all_eq_true, forall_mem_chunks_iff,
    show field (planSection image) 72 1 = field image 829 1 from field_slice image 757 73 72 1 (by omega)]
  refine and_congr_left' (forall₂_congr fun n hn => ?_)
  rw [planChunk_eq image hn, entryOk_iff]

theorem apartRow_eq (image : List Byte) {i : Nat} (h : i < 7) :
    byteField ((apartSection image).drop 2) i = byteField image (390 + i) := by
  rw [byteField_drop, apartSection, byteField_slice image 388 9 (2 + i) (by omega), ← Nat.add_assoc]

theorem forall_mem_iff_byteField (l : List Byte) (P : Byte → Prop) : (∀ b ∈ l, P b) ↔ ∀ i < l.length, P (byteField l i) := by
  constructor
  · intro h i hi
    rw [byteField, List.getD_eq_getElem _ _ hi]
    exact h _ (List.getElem_mem hi)
  · intro h b hb
    obtain ⟨i, hi, rfl⟩ := List.mem_iff_getElem.1 hb
    have := h i hi
    rwa [byteField, List.getD_eq_getElem _ _ hi] at this

theorem marked_succ (matrix : List Byte) (i j : Nat) : marked matrix (i + 1) (j + 1) = (byteField matrix i).getLsbD j := by
  simp [marked, byteField]

/-- R48: the marks are mutual exactly where the rows are symmetric. -/
theorem marked_symmetric_iff (matrix : List Byte) :
    ((List.range 8).all fun i => (List.range 8).all fun j => marked matrix i j == marked matrix j i) = true ↔
      ∀ i < 7, ∀ j < 7, (byteField matrix i).getLsbD j = (byteField matrix j).getLsbD i := by
  simp only [List.all_eq_true, List.mem_range, beq_iff_eq]
  constructor
  · intro h i hi j hj
    rw [← marked_succ, ← marked_succ]
    exact h (i + 1) (by omega) (j + 1) (by omega)
  · intro h i hi j hj
    cases i with
    | zero => simp [marked]
    | succ i =>
      cases j with
      | zero => simp [marked]
      | succ j =>
        rw [marked_succ, marked_succ]
        exact h i (by omega) j (by omega)

theorem apartRows_length {image : List Byte} (h : image.length = 830) : ((apartSection image).drop 2).length = 7 := by
  simp [apartSection, h]

theorem apartRows_clear_iff {image : List Byte} (h : image.length = 830) :
    (∀ row ∈ (apartSection image).drop 2, row.getLsbD 7 = false) ↔ ∀ i < 7, (byteField image (390 + i)).getLsbD 7 = false := by
  rw [forall_mem_iff_byteField, apartRows_length h]
  refine forall₂_congr fun i hi => ?_
  rw [apartRow_eq image hi]

theorem apartOk_iff {image : List Byte} (h : image.length = 830) : apartOk (apartSection image) = true ↔ ApartInRange image := by
  have hclear : ((apartSection image).drop 2).all (fun row => !row.getLsbD 7) = true ↔
      ∀ i < 7, (byteField image (390 + i)).getLsbD 7 = false := by
    rw [← apartRows_clear_iff h]
    simp
  have hsymmetric : (∀ i < 7, ∀ j < 7, (byteField ((apartSection image).drop 2) i).getLsbD j =
      (byteField ((apartSection image).drop 2) j).getLsbD i) ↔
        ∀ i < 7, ∀ j < 7, (byteField image (390 + i)).getLsbD j = (byteField image (390 + j)).getLsbD i := by
    refine forall₂_congr fun i hi => forall₂_congr fun j hj => ?_
    rw [apartRow_eq image hi, apartRow_eq image hj]
  have hK : between 0 300 (field (apartSection image) 0 2) = true ↔ field image 388 2 ≤ 300 := by
    rw [show field (apartSection image) 0 2 = field image 388 2 from field_slice image 388 9 0 2 (by omega), between_iff]
    omega
  unfold apartOk ApartInRange
  rw [Bool.and_eq_true, Bool.and_eq_true, marked_symmetric_iff, hK, hclear, hsymmetric, and_assoc]

/-! ### The first section with a fault -/

/-- The checks of the seven sections, in the image's order. -/
def sectionChecks (image : List Byte) : List Bool :=
  [stationOk (stationSection image), ((laneSection image).take (field (stationSection image) 1 1)).all laneOk,
    apartOk (apartSection image), limitOk (limitSection image), (boundSection image).all boundOk,
    (profileSection image).all profileOk, planOk (planSection image)]

theorem faultySection_eq (image : List Byte) : faultySection image = firstFault 1 (sectionChecks image) := by
  simp only [faultySection, sectionChecks, firstFault, Bool.not_eq_true', ← Bool.not_eq_true, ite_not]

theorem sectionChecks_decide {image : List Byte} (h : image.length = 830) : Decides (sectionChecks image) (sectionRanges image) :=
  .cons (stationOk_iff image) fun hstation => .cons (lanesOk_iff hstation) fun _ => .cons (apartOk_iff h) fun _ =>
    .cons (limitOk_iff image) fun _ => .cons (boundsOk_iff image) fun _ => .cons (profilesOk_iff image) fun _ =>
      .cons (planOk_iff image) fun _ => .nil

/-! ### The image load -/

theorem bytesRead_of_le {image : List Byte} {count : Nat} (h : count ≤ image.length) (draw : Nat) :
    bytesRead draw image count = image.take count := by
  rw [bytesRead, Nat.sub_eq_zero_of_le h, freeBytes, List.append_nil]

theorem imageSum_eq (image : List Byte) : imageSum image = ((image.take 5 ++ image.drop 7).map BitVec.toNat).sum % 65536 := by
  rw [imageSum, List.sum_eq_foldl, List.foldl_map]

theorem headerFault_take (image : List Byte) : headerFault (image.take 7) =
    if byteField image 0 ≠ 0x55 ∨ byteField image 1 ≠ 0x36 then some .badMarker
    else if byteField image 2 ≠ 1 then some .badVersion
    else if field image 3 2 ≠ 830 then some .badLength
    else none := by
  have hbyte (o : Nat) (h : o < 7) : byteField (image.take 7) o = byteField image o := by
    simpa using byteField_slice image 0 7 o h
  have hfield : field (image.take 7) 3 2 = field image 3 2 := by simpa using field_slice image 0 7 3 2 (by omega)
  unfold headerFault
  rw [hbyte 0 (by omega), hbyte 1 (by omega), hbyte 2 (by omega), hfield]

theorem exec_imageLoadEnd (image : List Byte) (s : State) : exec (.imageLoadEnd image) s =
    .next (if s.control.held = false ∧ s.control.station = .loading ∧ s.control.loader = .trying then loadEnd image s else s) :=
  event_of_iff _ (loadTrying_iff s)

/-- R175: the blocks as an image in force leaves them, before the limit-excess state is settled. -/
theorem enterListening_eq (im : Image) (s : State) : enterListening im
      { s with
        fresh := s.fresh + 1
        control := { s.control with link := s.control.link ++ takeBytes 830 } } =
    settle (listeningWith im s) := rfl

theorem loadEnd_eq {image : List Byte} (h : image.length = 830) (s : State) : loadEnd image s =
    if byteField image 0 ≠ 0x55 ∨ byteField image 1 ≠ 0x36 then faultedAfter .badMarker 7 s
    else if byteField image 2 ≠ 1 then faultedAfter .badVersion 7 s
    else if field image 3 2 ≠ 830 then faultedAfter .badLength 7 s
    else if ((image.take 5 ++ image.drop 7).map BitVec.toNat).sum % 65536 ≠ field image 5 2 then faultedAfter .badCheck 830 s
    else
      match faultySection image with
      | some n => faultedAfter (.badRange n) 830 s
      | none => settle (listeningWith (imageSettings image) s) := by
  unfold loadEnd
  simp only [Config.headerLength, Config.imageLength]
  rw [bytesRead_of_le (count := 7) (by omega), bytesRead_of_le (count := 830) (by omega),
    List.take_of_length_le (i := 830) (by omega), headerFault_take]
  by_cases hmarker : byteField image 0 ≠ 0x55 ∨ byteField image 1 ≠ 0x36
  · rw [if_pos hmarker, if_pos hmarker]
    rfl
  rw [if_neg hmarker, if_neg hmarker]
  by_cases hversion : byteField image 2 ≠ 1
  · rw [if_pos hversion, if_pos hversion]
    rfl
  rw [if_neg hversion, if_neg hversion]
  by_cases hlength : field image 3 2 ≠ 830
  · rw [if_pos hlength, if_pos hlength]
    rfl
  rw [if_neg hlength, if_neg hlength, bodyFault, imageSum_eq]
  by_cases hcheck : ((image.take 5 ++ image.drop 7).map BitVec.toNat).sum % 65536 ≠ field image 5 2
  · rw [if_pos hcheck, if_pos hcheck]
    rfl
  rw [if_neg hcheck, if_neg hcheck]
  cases faultySection image with
  | some n => rfl
  | none => exact enterListening_eq (imageSettings image) s

/-- Settles O7: the checks in order, and the first section that fails. -/
theorem imageLoadOutcome : Obligations.ImageLoadOutcome := by
  refine ⟨fun image s hlength hheld hstation hloader => ?_, fun image s hnot => ?_, fun image hlength => ?_⟩
  · rw [exec_imageLoadEnd, if_pos ⟨hheld, hstation, hloader⟩]
    exact congrArg Host.Outcome.next (loadEnd_eq hlength s)
  · rw [exec_imageLoadEnd, if_neg]
    rintro ⟨hheld, hstation, hloader⟩
    rcases hnot with h | h | h
    · simp [h] at hheld
    · exact h hstation
    · exact h hloader
  · have hdecides := sectionChecks_decide hlength
    rw [faultySection_eq]
    refine ⟨firstFault_eq_none_iff hdecides 1, fun n => ?_⟩
    rw [Nat.add_comm n 1]
    exact firstFault_eq_some_iff hdecides 1 n

end Sys2Proof.Machine
end

section
/-! PROOFS. The settings of an image that passed (R175, section 11.4): the bytes each is read from, and its range. -/

namespace Sys2Proof.Machine

open Sys2Proof.Safety

/-! ### Fields of an image, byte by byte -/

/-- Most significant byte first. -/
theorem field_eq_sum (image : List Byte) (place n : Nat) (h : place + n ≤ image.length) : field image place n =
    ((List.range n).map fun k => (byteField image (place + k)).toNat * 256 ^ (n - 1 - k)).sum := by
  induction n with
  | zero => simp [field, beNat]
  | succ n ih =>
    rw [field_succ image place n (by omega), ih (by omega), List.range_succ, List.map_append, List.sum_append,
      ← List.sum_map_mul_right]
    congr 1
    · refine congrArg List.sum (List.map_congr_left fun k hk => ?_)
      have hk : k < n := List.mem_range.1 hk
      rw [Nat.mul_assoc, ← Nat.pow_succ, show (n - 1 - k).succ = n + 1 - 1 - k by omega]
    · simp

theorem fieldSigned_eq (image : List Byte) (place n : Nat) (h : place + n ≤ image.length) : fieldSigned image place n =
    if 2 * field image place n < 256 ^ n then (field image place n : Int) else field image place n - (256 ^ n : Nat) := by
  have hlength : ((image.drop place).take n).length = n := by simp; omega
  rw [fieldSigned, beSigned, hlength]
  rfl

theorem field_one_lt (image : List Byte) (place : Nat) : field image place 1 < 256 := by
  rw [field_one]
  exact (byteField image place).isLt

/-! ### The settings and their bytes -/

theorem imageSettings_station (image : List Byte) : let im := imageSettings image
    im.laneCount = field image 8 1 ∧ im.gap = field image 9 1 ∧ im.xMid = field image 10 2 ∧ im.dMax = field image 12 4 ∧
      im.waitLimit = field image 16 2 ∧ im.lifetime = field image 18 2 ∧ im.heartbeat = field image 20 2 ∧
      im.silence = field image 22 1 ∧ im.expected = byteField image 23 :=
  ⟨field_slice image 7 21 1 1 (by omega), field_slice image 7 21 2 1 (by omega), field_slice image 7 21 3 2 (by omega),
    field_slice image 7 21 5 4 (by omega), field_slice image 7 21 9 2 (by omega), field_slice image 7 21 11 2 (by omega),
    field_slice image 7 21 13 2 (by omega), field_slice image 7 21 15 1 (by omega), byteField_slice image 7 21 16 (by omega)⟩

theorem imageSettings_stationNo {image : List Byte} (h : field image 7 1 ≤ 7) :
    (imageSettings image).stationNo.val = field image 7 1 := by
  show field (stationSection image) 0 1 % 8 = _
  rw [show field (stationSection image) 0 1 = field image 7 1 from field_slice image 7 21 0 1 (by omega)]
  omega

theorem expectedPeers_mem_iff (im : Image) (n : StationNo) :
    n ∈ im.expectedPeers ↔ im.expected.getLsbD n.val = true ∧ n ≠ im.stationNo := by
  simp [Image.expectedPeers]

theorem expectedPeers_ascending (im : Image) : im.expectedPeers.Pairwise fun a b => a < b :=
  (List.pairwise_lt_finRange 8).filter _

theorem laneOfBytes_slice (image : List Byte) (a : Nat) : laneOfBytes ((image.drop a).take 15) =
    { xStop := field image a 2, len := field image (a + 2) 2, y := fieldSigned image (a + 4) 2, z := field image (a + 6) 2,
      width := field image (a + 8) 1, high := field image (a + 9) 1, low := field image (a + 10) 1,
      axle := field image (a + 11) 1, order := if field image (a + 12) 1 = 0 then .through else .blind,
      powered := field image (a + 13) 2 } := by
  simp (disch := omega) only [laneOfBytes, field_slice, fieldSigned_slice, Nat.add_zero]

theorem imageSettings_lanes (image : List Byte) : (imageSettings image).lanes =
    ((chunks 15 24 (image.drop 28)).take (field image 8 1)).map laneOfBytes := by
  show ((laneSection image).take (field (stationSection image) 1 1)).map laneOfBytes = _
  rw [show field (stationSection image) 1 1 = field image 8 1 from field_slice image 7 21 1 1 (by omega)]
  rfl

theorem imageSettings_lane {image : List Byte} {n : Nat} (hn : n < field image 8 1) (hcount : field image 8 1 ≤ 24) :
    (imageSettings image).lane n = laneOfBytes ((image.drop (28 + 15 * n)).take 15) := by
  rw [Image.lane, imageSettings_lanes, getD_map_take_chunks hn hcount, List.drop_drop]

theorem imageSettings_matrix (image : List Byte) {i : Nat} (h : i < 7) :
    (imageSettings image).matrix.getD i 0 = byteField image (390 + i) := apartRow_eq image h

theorem imageSettings_limits (image : List Byte) : let im := imageSettings image
    im.mMax = field image 397 4 ∧ im.tMax = field image 401 4 ∧ im.vMax = field image 405 4 ∧
      im.wMin = fieldSigned image 409 6 ∧ im.wMax = fieldSigned image 415 6 :=
  ⟨congrArg Nat.cast (field_slice image 397 24 0 4 (by omega)), congrArg Nat.cast (field_slice image 397 24 4 4 (by omega)),
    congrArg Nat.cast (field_slice image 397 24 8 4 (by omega)), fieldSigned_slice image 397 24 12 6 (by omega),
    fieldSigned_slice image 397 24 18 6 (by omega)⟩

theorem boundsOfBytes_slice (image : List Byte) (a : Nat) : boundsOfBytes ((image.drop a).take 28) =
    { lo := ⟨0, fieldSigned image (a + 4) 4, fieldSigned image (a + 12) 4, field image (a + 20) 4⟩
      hi := ⟨field image a 4, fieldSigned image (a + 8) 4, fieldSigned image (a + 16) 4, field image (a + 24) 4⟩ } := by
  simp (disch := omega) only [boundsOfBytes, field_slice, fieldSigned_slice, Nat.add_zero]

theorem imageSettings_bounds (image : List Byte) {n : Nat} (hn : n < 8) (d : Bounds) :
    (imageSettings image).bounds.getD n d = boundsOfBytes ((image.drop (421 + 28 * n)).take 28) := by
  show ((chunks 28 8 (image.drop 421)).map boundsOfBytes).getD n d = _
  rw [getD_map_chunks hn, List.drop_drop]

theorem profileOfBytes_slice (image : List Byte) (a : Nat) : profileOfBytes ((image.drop a).take 7) =
    { kinds := byteField image a, groups := byteField image (a + 1), unverified := field image (a + 2) 1 == 1,
      threshold := field image (a + 3) 2, wH := field image (a + 5) 1 / 16, wT := field image (a + 5) 1 % 16,
      wO := field image (a + 6) 1 / 16, wF := field image (a + 6) 1 % 16 } := by
  simp (disch := omega) only [profileOfBytes, field_slice, byteField_slice, Nat.add_zero]

theorem imageSettings_profile (image : List Byte) {n : Nat} (hn : n < 16) (d : Profile) :
    (imageSettings image).profiles.getD n d = profileOfBytes ((image.drop (645 + 7 * n)).take 7) := by
  show ((chunks 7 16 (image.drop 645)).map profileOfBytes).getD n d = _
  rw [getD_map_chunks hn, List.drop_drop]

/-- A plan entry as the image holds it at a place. -/
theorem planEntry_slice (image : List Byte) (a : Nat) : (rawEntry ((image.drop a).take 3)).entry =
    { closed := field image a 1 == 1
      reserved := if field image (a + 1) 1 = 0 then none else some (field image (a + 1) 1)
      profile := if field image (a + 2) 1 = 0xFF then none else some (field image (a + 2) 1) } := by
  rw [rawEntry_slice, RawEntry.entry]
  simp only [field_one, byte_eq_iff]
  rfl

theorem imageSettings_entry (image : List Byte) {n : Nat} (hn : n < 24) :
    (imageSettings image).plan.entry n = (rawEntry ((image.drop (757 + 3 * n)).take 3)).entry := by
  show ((chunks 3 24 (planSection image)).map fun e => (rawEntry e).entry).getD n PlanEntry.none = _
  rw [getD_map_chunks hn, planChunk_eq image hn]

theorem imageSettings_dflt (image : List Byte) : (imageSettings image).plan.dflt = field image 829 1 :=
  field_slice image 757 73 72 1 (by omega)

/-! ### Codes -/

theorem imageSettings_subst {image : List Byte} (h : field image 24 1 ≤ 2) :
    (field image 24 1, (imageSettings image).subst) ∈ [(0, SubstMode.hold), (1, .bound), (2, .freeze)] := by
  have hfield : field (stationSection image) 17 1 = field image 24 1 := field_slice image 7 21 17 1 (by omega)
  have hcode : field image 24 1 = 0 ∨ field image 24 1 = 1 ∨ field image 24 1 = 2 := by omega
  rcases hcode with e | e | e <;> simp [imageSettings, hfield, e]

theorem imageSettings_switchMode {image : List Byte} (h : field image 25 1 ≤ 2) :
    (field image 25 1, (imageSettings image).switchMode) ∈ [(0, SwitchMode.direct), (1, .line), (2, .request)] := by
  have hfield : field (stationSection image) 18 1 = field image 25 1 := field_slice image 7 21 18 1 (by omega)
  have hcode : field image 25 1 = 0 ∨ field image 25 1 = 1 ∨ field image 25 1 = 2 := by omega
  rcases hcode with e | e | e <;> simp [imageSettings, hfield, e]

theorem truth_mem {x : Nat} (h : x ≤ 1) : (x, x == 1) ∈ [(0, false), (1, true)] := by
  have hcode : x = 0 ∨ x = 1 := by omega
  rcases hcode with rfl | rfl <;> decide

theorem order_mem {x : Nat} (h : x ≤ 1) :
    (x, if x = 0 then OrderKind.through else .blind) ∈ [(0, OrderKind.through), (1, .blind)] := by
  have hcode : x = 0 ∨ x = 1 := by omega
  rcases hcode with rfl | rfl <;> decide

theorem imageSettings_openDrain (image : List Byte) : (imageSettings image).openDrain = (field image 26 1 == 1) := by
  show (field (stationSection image) 19 1 == 1) = _
  rw [show field (stationSection image) 19 1 = field image 26 1 from field_slice image 7 21 19 1 (by omega)]

theorem imageSettings_activeHigh (image : List Byte) : (imageSettings image).activeHigh = (field image 27 1 == 1) := by
  show (field (stationSection image) 20 1 == 1) = _
  rw [show field (stationSection image) 20 1 = field image 27 1 from field_slice image 7 21 20 1 (by omega)]

/-! ### Every setting in its range -/

theorem forall_mem_lanes_iff {image : List Byte} (hcount : field image 8 1 ≤ 24) (Q : LaneDesc → Prop) :
    (∀ d ∈ (imageSettings image).lanes, Q d) ↔
      ∀ n < field image 8 1, Q (laneOfBytes ((image.drop (28 + 15 * n)).take 15)) := by
  rw [imageSettings_lanes, List.forall_mem_map, forall_mem_take_chunks_iff hcount (P := fun b => Q (laneOfBytes b))]
  simp only [List.drop_drop]

theorem forall_mem_bounds_iff (image : List Byte) (Q : Bounds → Prop) :
    (∀ b ∈ (imageSettings image).bounds, Q b) ↔ ∀ n < 8, Q (boundsOfBytes ((image.drop (421 + 28 * n)).take 28)) := by
  show (∀ b ∈ (chunks 28 8 (image.drop 421)).map boundsOfBytes, Q b) ↔ _
  rw [List.forall_mem_map, forall_mem_chunks_iff (P := fun b => Q (boundsOfBytes b))]
  simp only [List.drop_drop]

theorem forall_mem_profiles_iff (image : List Byte) (Q : Profile → Prop) :
    (∀ p ∈ (imageSettings image).profiles, Q p) ↔ ∀ n < 16, Q (profileOfBytes ((image.drop (645 + 7 * n)).take 7)) := by
  show (∀ p ∈ (chunks 7 16 (image.drop 645)).map profileOfBytes, Q p) ↔ _
  rw [List.forall_mem_map, forall_mem_chunks_iff (P := fun b => Q (profileOfBytes b))]
  simp only [List.drop_drop]

theorem forall_mem_entries_iff (image : List Byte) (Q : PlanEntry → Prop) :
    (∀ e ∈ (imageSettings image).plan.entries, Q e) ↔ ∀ n < 24, Q (rawEntry ((image.drop (757 + 3 * n)).take 3)).entry := by
  show (∀ e ∈ (chunks 3 24 (planSection image)).map (fun e => (rawEntry e).entry), Q e) ↔ _
  rw [List.forall_mem_map, forall_mem_chunks_iff (P := fun b => Q (rawEntry b).entry)]
  exact forall₂_congr fun n hn => by rw [planChunk_eq image hn]

theorem lanes_inRange {image : List Byte} (hcount : field image 8 1 ≤ 24)
    (h : ∀ n < field image 8 1, LaneInRange image (28 + 15 * n)) : ∀ d ∈ (imageSettings image).lanes,
      d.xStop ≤ 2500 ∧ 100 ≤ d.len ∧ d.len ≤ 2000 ∧ d.len ≤ d.xStop ∧ -200 ≤ d.y ∧ d.y ≤ 200 ∧
        d.z ≤ 400 ∧ 20 ≤ d.width ∧ d.width ≤ 40 ∧ 20 ≤ d.high ∧ d.high ≤ 60 ∧ 20 ≤ d.low ∧ d.low ≤ d.high ∧
        10 ≤ d.axle ∧ d.axle ≤ 200 ∧ d.powered ≤ d.len := by
  refine (forall_mem_lanes_iff hcount _).2 fun n hn => ?_
  rw [laneOfBytes_slice]
  have := h n hn
  unfold LaneInRange at this
  dsimp only at this ⊢
  omega

theorem bounds_inRange {image : List Byte} (h : ∀ n < 8, BoundsInRange image (421 + 28 * n)) :
    ∀ b ∈ (imageSettings image).bounds, b.lo.m = 0 ∧ 0 ≤ b.hi.m ∧ b.hi.m ≤ 307200 ∧
      -122880000 ≤ b.lo.t ∧ b.lo.t ≤ b.hi.t ∧ b.hi.t ≤ 122880000 ∧
      -1536000000 ≤ b.lo.l ∧ b.lo.l ≤ b.hi.l ∧ b.hi.l ≤ 1536000000 ∧
      0 ≤ b.lo.v ∧ b.lo.v ≤ b.hi.v ∧ b.hi.v ≤ 261120000 := by
  refine (forall_mem_bounds_iff image _).2 fun n hn => ?_
  rw [boundsOfBytes_slice]
  have := h n hn
  unfold BoundsInRange at this
  dsimp only at this ⊢
  omega

theorem profiles_inRange {image : List Byte} (h : ∀ n < 16, ProfileInRange image (645 + 7 * n)) :
    ∀ p ∈ (imageSettings image).profiles, p.kinds.toNat < 32 ∧ p.threshold ≤ 500 ∧
      p.wH ≤ 15 ∧ p.wT ≤ 15 ∧ p.wO ≤ 15 ∧ p.wF ≤ 15 := by
  refine (forall_mem_profiles_iff image _).2 fun n hn => ?_
  rw [profileOfBytes_slice]
  have hrange := h n hn
  have hkinds := field_one image (645 + 7 * n)
  unfold ProfileInRange at hrange
  have hfirst := field_one_lt image (645 + 7 * n + 5)
  have hsecond := field_one_lt image (645 + 7 * n + 6)
  dsimp only at hrange ⊢
  omega

theorem entries_inRange {image : List Byte} (h : ∀ n < 24, EntryInRange image (757 + 3 * n)) :
    ∀ e ∈ (imageSettings image).plan.entries, (∀ p ∈ e.reserved, 1 ≤ p ∧ p ≤ 6) ∧ ∀ p ∈ e.profile, p ≤ 15 := by
  refine (forall_mem_entries_iff image _).2 fun n hn => ?_
  rw [planEntry_slice]
  obtain ⟨-, hreserved, hprofile⟩ := h n hn
  dsimp only at hreserved hprofile ⊢
  split_ifs <;> simp <;> omega

theorem matrix_inRange {image : List Byte} (hlength : image.length = 830) (h : ApartInRange image) :
    let im := imageSettings image
    im.matrix.length = 7 ∧ (∀ row ∈ im.matrix, row.getLsbD 7 = false) ∧
      ∀ i < 7, ∀ j < 7, (im.matrix.getD i 0).getLsbD j = (im.matrix.getD j 0).getLsbD i := by
  obtain ⟨-, hclear, hsymmetric⟩ := h
  refine ⟨apartRows_length hlength, (apartRows_clear_iff hlength).2 hclear, fun i hi j hj => ?_⟩
  rw [imageSettings_matrix image hi, imageSettings_matrix image hj]
  exact hsymmetric i hi j hj

/-- Every setting but for the codes, at its place of the image. -/
theorem imageSettings_fields (image : List Byte) (hcount : field image 8 1 ≤ 24) : let im := imageSettings image
    let u := field image
    let w := fieldSigned image
    (im.laneCount = u 8 1 ∧ im.gap = u 9 1 ∧ im.xMid = u 10 2 ∧ im.dMax = u 12 4 ∧ im.waitLimit = u 16 2 ∧ im.lifetime = u 18 2 ∧
      im.heartbeat = u 20 2 ∧ im.silence = u 22 1) ∧
    ((∀ n : StationNo, n ∈ im.expectedPeers ↔ (byteField image 23).getLsbD n.val = true ∧ n ≠ im.stationNo) ∧
      im.expectedPeers.Pairwise (fun a b => a < b)) ∧
    (∀ n < im.laneCount, let a := 28 + 15 * n; let d := im.lane n
      d.xStop = u a 2 ∧ d.len = u (a + 2) 2 ∧ d.y = w (a + 4) 2 ∧ d.z = u (a + 6) 2 ∧ d.width = u (a + 8) 1 ∧ d.high = u (a + 9) 1 ∧
        d.low = u (a + 10) 1 ∧ d.axle = u (a + 11) 1 ∧ d.powered = u (a + 13) 2) ∧
    (im.apart = u 388 2 ∧ ∀ i < 7, im.matrix.getD i 0 = byteField image (390 + i)) ∧
    (im.mMax = u 397 4 ∧ im.tMax = u 401 4 ∧ im.vMax = u 405 4 ∧ im.wMin = w 409 6 ∧ im.wMax = w 415 6) ∧
    (∀ n < 8, let a := 421 + 28 * n; let b := im.bounds.getD n ⟨⟨0, 0, 0, 0⟩, ⟨0, 0, 0, 0⟩⟩
      b.hi.m = u a 4 ∧ b.lo.t = w (a + 4) 4 ∧ b.hi.t = w (a + 8) 4 ∧ b.lo.l = w (a + 12) 4 ∧ b.hi.l = w (a + 16) 4 ∧
        b.lo.v = u (a + 20) 4 ∧ b.hi.v = u (a + 24) 4) ∧
    (∀ n < 16, let a := 645 + 7 * n; let p := im.profiles.getD n Profile.none
      p.kinds = byteField image a ∧ p.groups = byteField image (a + 1) ∧ p.threshold = u (a + 3) 2 ∧
        16 * p.wH + p.wT = u (a + 5) 1 ∧ 16 * p.wO + p.wF = u (a + 6) 1) ∧
    (∀ n < 24, let a := 757 + 3 * n; let e := im.plan.entry n
      e.reserved = (if u (a + 1) 1 = 0 then none else some (u (a + 1) 1)) ∧
        e.profile = if u (a + 2) 1 = 0xFF then none else some (u (a + 2) 1)) ∧
    im.plan.dflt = u 829 1 := by
  obtain ⟨hlaneCount, hgap, hmid, hmax, hwait, hlifetime, hheartbeat, hsilence, hexpected⟩ := imageSettings_station image
  refine ⟨⟨hlaneCount, hgap, hmid, hmax, hwait, hlifetime, hheartbeat, hsilence⟩,
    ⟨fun n => hexpected ▸ expectedPeers_mem_iff _ n, expectedPeers_ascending _⟩, fun n hn => ?_,
    ⟨field_slice image 388 9 0 2 (by omega), fun i hi => imageSettings_matrix image hi⟩, imageSettings_limits image,
    fun n hn => ?_, fun n hn => ?_, fun n hn => ?_, imageSettings_dflt image⟩
  · dsimp only
    rw [imageSettings_lane (hlaneCount ▸ hn) hcount, laneOfBytes_slice]
    exact ⟨rfl, rfl, rfl, rfl, rfl, rfl, rfl, rfl, rfl⟩
  · dsimp only
    rw [imageSettings_bounds image hn, boundsOfBytes_slice]
    exact ⟨rfl, rfl, rfl, rfl, rfl, rfl, rfl⟩
  · dsimp only
    rw [imageSettings_profile image hn, profileOfBytes_slice]
    exact ⟨rfl, rfl, rfl, Nat.div_add_mod _ 16, Nat.div_add_mod _ 16⟩
  · dsimp only
    rw [imageSettings_entry image hn, planEntry_slice]
    exact ⟨rfl, rfl⟩

/-- Settles O8: each setting read from its place, and its section's range. -/
theorem acceptedImageInRange : Obligations.AcceptedImageInRange := by
  refine ⟨fun image place n h => ⟨field_eq_sum image place n h, fieldSigned_eq image place n h⟩, fun image hlength hnone => ?_⟩
  have hranges : ∀ p ∈ sectionRanges image, p := by
    rw [faultySection_eq] at hnone
    exact (firstFault_eq_none_iff (sectionChecks_decide hlength) 1).1 hnone
  obtain ⟨hstation, hlanes, hapart, hlimits, hbounds, hprofiles, ⟨hentries, hdflt⟩, -⟩ :=
    by simpa only [sectionRanges, List.forall_mem_cons] using hranges
  have ⟨hnumber, _, hcount, _⟩ := hstation
  obtain ⟨hlaneCount, hgap, hmid, hmax, hwait, hlifetime, hheartbeat, hsilence, -⟩ := imageSettings_station image
  obtain ⟨hM, hT, hV, hLo, hHi⟩ := imageSettings_limits image
  have hapartK : (imageSettings image).apart = field image 388 2 := field_slice image 388 9 0 2 (by omega)
  have hK := hapart.1
  unfold StationInRange at hstation
  unfold LimitsInRange at hlimits
  dsimp only at hstation hlimits
  refine ⟨⟨hnumber, imageSettings_stationNo hnumber⟩, imageSettings_fields image hcount, by omega, by omega, by omega,
    ⟨imageSettings_subst (by omega), imageSettings_switchMode (by omega), ?_, ?_⟩, ?_, lanes_inRange hcount hlanes,
    fun lane hlane => ?_, matrix_inRange hlength hapart, by omega, by omega,
    ⟨by simp [imageSettings, boundSection], bounds_inRange hbounds⟩,
    ⟨by simp [imageSettings, profileSection], profiles_inRange hprofiles⟩, fun n hn => ?_,
    ⟨by simp [imageSettings, planOfBytes], imageSettings_dflt image ▸ hdflt, entries_inRange hentries⟩, fun n hn => ?_⟩
  · rw [imageSettings_openDrain]
    exact truth_mem (by omega)
  · rw [imageSettings_activeHigh]
    exact truth_mem (by omega)
  · rw [imageSettings_lanes, hlaneCount]
    simpa using hcount
  · rw [hlaneCount] at hlane
    obtain ⟨-, -, -, -, -, -, -, -, -, -, -, -, -, -, -, horder, -⟩ := hlanes lane hlane
    rw [imageSettings_lane hlane hcount, laneOfBytes_slice]
    exact order_mem horder
  · obtain ⟨-, hunverified, -⟩ := hprofiles n hn
    rw [imageSettings_profile image hn, profileOfBytes_slice]
    exact truth_mem hunverified
  · obtain ⟨hclosed, hreserved, hprofile⟩ := hentries n hn
    rw [imageSettings_entry image hn, planEntry_slice]
    exact ⟨truth_mem hclosed, hreserved, hprofile⟩

end Sys2Proof.Machine
end

section
/-! PROOFS. Requests of the intake queue and of restoring: each received request is the handling of its owner, one chain of checks,
answered (R23 to R27, R177 to R179); and NULL, and what is not well framed (R158, R159). -/

namespace Sys2Proof.Machine

open Sys2Proof.Safety

/-! ### A handling answered -/

/-- A request's reply code and the state it leaves, as the outcome of the request. -/
def answerWith (s : State) (x : ReplyCode × State) : Result := reply x.1 s x.2

theorem answerWith_mk (s : State) (code : ReplyCode) (t : State) : answerWith s (code, t) = reply code s t := rfl

theorem answerWith_ite (s : State) (c : Prop) [Decidable c] (x y : ReplyCode × State) :
    answerWith s (if c then x else y) = if c then answerWith s x else answerWith s y := apply_ite ..

/-- A received request is its handling of the state as it stands. -/
theorem PortFree.serveCode_received {handle : State → ReplyCode × State} (h : PortFree handle) {s : State} (hr : Received s) :
    serveCode s handle = answerWith s (handle s) :=
  Safety.serveCode_received s handle hr (h s)

theorem serving_eq_false_iff (st : StationState) : (!st.serving) = true ↔ st = .loading ∨ st = .faulted := by
  cases st <;> decide

theorem working_eq_false_iff (st : StationState) : (!st.working) = true ↔ st = .loading ∨ st = .faulted ∨ st = .quiet := by
  cases st <;> decide

theorem answerWith_whileWorking (s : State) (handle : Image → ReplyCode × State) :
    answerWith s (whileWorking s handle) = whileServed s fun im => answerWith s (handle im) := by
  unfold whileWorking whileServed
  cases s.image with
  | none => rfl
  | some im => cases s.control.station <;> rfl

theorem whileServed_congr {s : State} {f g : Image → Result} (h : ∀ im, s.image = some im → f im = g im) :
    whileServed s f = whileServed s g := by
  unfold whileServed
  cases him : s.image with
  | none => rfl
  | some im => cases s.control.station <;> simp only [h im him]

/-! ### NULL and what is not well framed -/

theorem takeIn_pendingReply (s : State) : (takeIn s).port.pendingReply = s.port.pendingReply := by
  unfold takeIn
  split <;> rfl

/-- Settles O13: taking the selection in leaves the pending reply as it is. -/
theorem nullCopiesPendingReply : Obligations.NullCopiesPendingReply := by
  intro s hr
  calc serve s (fun t => (t.port.pendingReply.getD [ReplyCode.done.byte], t))
      = serve s (fun t => (s.port.pendingReply.getD [ReplyCode.done.byte], t)) := by
        simp only [serve, takeIn_pendingReply]
    _ = _ := serve_received s _ hr fun _ => rfl

/-- R158 with R145: the body of a LOAD PLAN is three bytes and three for each of at most 24 entries. -/
theorem loadPlanLength_iff (len : Nat) :
    (len % 3 == 0 && decide (3 ≤ len) && decide (len ≤ 75)) = true ↔ ∃ entries ≤ 24, len = 3 + 3 * entries := by
  simp only [Bool.and_eq_true, beq_iff_eq, decide_eq_true_eq]
  constructor
  · rintro ⟨⟨hmod, hlow⟩, hhigh⟩
    exact ⟨len / 3 - 1, by omega, by omega⟩
  · rintro ⟨entries, hcount, rfl⟩
    omega

/-- The kinds of section 11.2 with the body lengths tabled for them, but for LOAD PLAN. -/
def tabledLengths : List (Nat × Nat) :=
  [(0x00, 0), (0x01, 0), (0x02, 0), (0x03, 2), (0x04, 4), (0x05, 1), (0x06, 0), (0x07, 2), (0x08, 0), (0x10, 15),
    (0x10, 16), (0x11, 4), (0x12, 4), (0x20, 4), (0x21, 4), (0x22, 5), (0x23, 4), (0x30, 12), (0x41, 1), (0x42, 1), (0x43, 1),
    (0x44, 1), (0x50, 0), (0x51, 18), (0x51, 19), (0x52, 0), (0x5F, 0)]

theorem lengthAllowed_iff (kind len : Nat) : lengthAllowed kind len = true ↔
    (kind, len) ∈ tabledLengths ∨ (kind = 0x40 ∧ ∃ entries ≤ 24, len = 3 + 3 * entries) := by
  constructor
  · intro h
    unfold lengthAllowed at h
    split at h
    case h_27 => cases h
    case h_26 => exact .inr ⟨rfl, (loadPlanLength_iff len).1 h⟩
    all_goals
      left
      simpa [tabledLengths] using h
  · rintro (hmem | ⟨rfl, hlength⟩)
    · have hall : ∀ x ∈ tabledLengths, lengthAllowed x.1 x.2 = true := by decide
      exact hall _ hmem
    · exact (loadPlanLength_iff len).2 hlength

theorem requestOfBody_isSome {kind len : Nat} (h : lengthAllowed kind len = true) (panel switch : Bool) (b : List Byte) :
    (requestOfBody panel switch kind b).isSome = true := by
  unfold lengthAllowed at h
  split at h
  case h_27 => cases h
  all_goals rfl

theorem wellFramed_iff (bytes : List Byte) : wellFramed bytes = true ↔
    (2 ≤ bytes.length ∧ lengthAllowed (byteField bytes 0).toNat (byteField bytes 1).toNat = true) ∧
      2 + (byteField bytes 1).toNat ≤ bytes.length := by
  simp only [wellFramed, Bool.and_eq_true, decide_eq_true_eq]
  refine and_congr_right fun hframe => ?_
  have := hframe.1
  omega

theorem requestOfBytes_eq_none_iff (panel switch : Bool) (bytes : List Byte) :
    requestOfBytes panel switch bytes = none ↔ wellFramed bytes = false := by
  unfold requestOfBytes
  split
  case isTrue h =>
    obtain ⟨⟨-, hallowed⟩, -⟩ := (wellFramed_iff bytes).1 h
    have hsome := requestOfBody_isSome hallowed panel switch ((bytes.drop 2).take (byteField bytes 1).toNat)
    simp [h, ← Option.isNone_iff_eq_none, hsome]
  case isFalse h => simpa using h

/-- Settles O14. -/
theorem badRequestRefused : Obligations.BadRequestRefused := by
  refine ⟨lengthAllowed_iff, fun code => ?_, fun bytes => ⟨?_, fun panel switch => requestOfBytes_eq_none_iff panel switch bytes,
    fun s hr hnot => ?_⟩⟩
  · cases code <;> simp [ReplyCode.byte]
  · rw [← Bool.not_eq_true, wellFramed_iff, not_and_or, not_and_or, Nat.not_le, Bool.not_eq_true, Nat.not_le, or_assoc]
  · rw [execBadRequest_eq, hnot]
    exact Safety.serveCode_received s _ hr fun _ => rfl

/-! ### Restoring -/

/-- Settles O10, by the station state. -/
theorem restoreBeginAndEnd : Obligations.RestoreBeginAndEnd := by
  intro s hr
  constructor
  · show serveCode s beginRestore = _
    rw [beginRestore_portFree.serveCode_received hr, beginRestore]
    cases s.control.station <;> rfl
  · show serveCode s endRestore = _
    rw [endRestore_portFree.serveCode_received hr, endRestore]
    cases s.control.station <;> rfl

theorem orderAllows_eq_false_iff (order : OrderKind) (newest : Option UnitRecord) (port : Nat) :
    (!orderAllows order newest port) = true ↔
      (match newest, order with
        | none, _ => false
        | some r, .through => decide (port < r.unit.port)
        | some r, .blind => decide (r.unit.port < port)) = true := by
  cases newest with
  | none => simp [orderAllows]
  | some r => cases order <;> simp [orderAllows]

theorem freePool_eq_zero_iff (u : UnitStore) : u.freePool = 0 ↔ 512 ≤ u.records.length := by
  unfold UnitStore.freePool Config.poolSize
  omega

theorem not_acceptable_iff (laneCount : Nat) (u : RawUnit) : (!u.acceptable laneCount) = true ↔ BadRecord laneCount u := by
  rw [Bool.not_eq_true']
  exact acceptable_false_iff laneCount u

theorem answerWith_restoreChecked (im : Image) (lane offset : Nat) (u : RawUnit) (s : State) :
    answerWith s (restoreChecked im lane offset u s) =
      if TagHeld s u.tag then reply .duplicateTag s s
      else if BadRecord im.laneCount u then reply .badValue s s
      else if im.laneCount ≤ lane then reply .badValue s s
      else if offset < occupied im.gap s.units.records lane then reply .badValue s s
      else if (im.lane lane).len < offset + u.clamped.length then reply .badValue s s
      else if (!orderAllows (im.lane lane).order (newestOn s.units.records lane) u.clamped.port) = true then reply .badValue s s
      else if 40 ≤ (onLane s.units.records lane).length ∨ 512 ≤ s.units.records.length then reply .full s s
      else reply .done s (settle (insertRecord im (restoredRecord im lane offset u.clamped) s)) := by
  simp only [restoreChecked, answerWith_ite, answerWith_mk, tagHeld_iff, not_acceptable_iff, Config.laneCap, freePool_eq_zero_iff]

/-- Settles O11: the station state, then the checks in order. -/
theorem restoreUnitOutcome : Obligations.RestoreUnitOutcome := by
  intro lane offset u s hr
  show serveCode s (restoreUnit lane.toNat offset.toNat u) = _
  rw [(restoreUnit_portFree _ _ u).serveCode_received hr, restoreUnit]
  cases hstation : s.control.station
  case restoring =>
    cases him : s.image with
    | none => rfl
    | some im =>
      simp only [answerWith_restoreChecked, orderAllows_eq_false_iff, ← him]
      rfl
  all_goals rfl

/-! ### Intake -/

theorem submitArrival_eq (u : RawUnit) (t : State) : submitArrival u t = whileWorking t fun im =>
    if Config.intakeCap ≤ t.intake.length then (.full, t)
    else if !u.acceptable im.laneCount then (.badRecord, t)
    else if tagHeld t u.tag then (.duplicateTag, t)
    else (.taken, joinQueue (.arrival u.clamped) t) := by
  unfold submitArrival whileWorking
  cases t.image with
  | none => rfl
  | some im => cases t.control.station <;> rfl

theorem ne_parked_iff (r : UnitRecord) : r.state ≠ .parked ↔ r.state = .pending ∨ r.state = .leaving := by
  cases r.state <;> decide

/-- Settles O18. -/
theorem submitArrivalOutcome : Obligations.SubmitArrivalOutcome := by
  intro u s hr
  show serveCode s (submitArrival u) = _
  rw [(submitArrival_portFree u).serveCode_received hr, submitArrival_eq, answerWith_whileWorking]
  refine whileServed_congr fun im _ => ?_
  simp only [answerWith_ite, answerWith_mk, tagHeld_iff, not_acceptable_iff, Config.intakeCap]
  rfl

/-- Settles O20. -/
theorem submitDepartureOutcome : Obligations.SubmitDepartureOutcome := by
  intro tag s hr
  show serveCode s (submitDeparture tag) = _
  rw [(submitDeparture_portFree tag).serveCode_received hr, submitDeparture, answerWith_ite]
  refine ite_congr (propext (working_eq_false_iff _)) (fun _ => rfl) fun _ => ?_
  show answerWith s (match s.units.records.find? fun r => r.unit.tag == tag with
    | none => _
    | some r => _) = _
  cases s.units.records.find? fun r => r.unit.tag == tag with
  | none => rfl
  | some r =>
    have hentry : (s.intake.any fun e => e.tag == tag) = true ↔ ∃ e ∈ s.intake, e.tag = tag := by simp
    simp only [answerWith_ite, answerWith_mk, Config.intakeCap, ne_parked_iff, hentry]
    rfl

theorem Entry.isPlacing_iff (e : Entry) : e.isPlacing = true ↔ ∃ id, e.state = .placing id := by
  cases h : e.state <;> simp [Entry.isPlacing, h]

/-- Settles O21. -/
theorem withdrawOutcome : Obligations.WithdrawOutcome := by
  refine ⟨fun e => ⟨?_, e.isPlacing_iff⟩, fun tag s hr => ?_⟩
  · unfold Entry.tag
    cases e.ask <;> rfl
  · show serveCode s (withdraw tag) = _
    rw [(withdraw_portFree tag).serveCode_received hr, withdraw, answerWith_ite]
    refine ite_congr (propext (serving_eq_false_iff _)) (fun _ => rfl) fun _ => ?_
    cases s.intake.find? fun e => e.tag == tag with
    | none => rfl
    | some e => exact answerWith_ite ..

end Sys2Proof.Machine
end

section
/-! PROOFS. The reads (R160 to R167, R169): they leave every block as it was, and their replies field by field. -/

namespace Sys2Proof.Machine

open Sys2Proof.Safety

/-- A read whose reply does not look at the port. -/
theorem serve_read {s : State} (hr : Received s) (body : State → List Byte) (hbody : ∀ p, body (s.withPort p) = body s) :
    serve s (fun t => (readReply t (body t), t)) =
      .next (s.withPort (answered s.port (if s.control.station = .loading then [0x0A] else body s))) :=
  serve_received s (fun t => (readReply t (body t), t)) hr fun p => by
    simp only [hbody, readReply, State.withPort_fields]

/-- Settles O15. -/
theorem readsChangeNothing : Obligations.ReadsChangeNothing := by
  intro s hr
  refine ⟨serve_read hr (fun t => doneWith (statusBody t)) fun _ => rfl,
    serve_read hr (fun t => doneWith (shipViewBody t)) fun _ => rfl,
    fun lane first => serve_read hr (fun t => laneReply t lane.toNat first.toNat) fun _ => rfl,
    fun tag => serve_read hr (fun t => unitReply t tag) fun _ => rfl,
    fun number => serve_read hr (fun t => peerReply t number) fun _ => rfl,
    serve_read hr (fun t => doneWith (intakeBody t)) fun _ => rfl, fun plan first => ?_⟩
  rw [exec_readPlan]
  exact serve_received s (fun t => (readReply t (planReply t plan first), { t with fresh := t.fresh + 1 })) hr fun _ => rfl

/-! ### Codes as bytes -/

theorem stationCode_eq (st : StationState) : numByte st.code = match st with
    | .loading => 0
    | .faulted => 1
    | .listening => 2
    | .restoring => 3
    | .joined => 4
    | .quiet => 5 := by
  cases st <;> rfl

theorem faultCodes_eq (fault : Option FaultCode) :
    [numByte ((fault.map FaultCode.code).getD 0), numByte ((fault.map FaultCode.sectionCode).getD 0)] = match fault with
      | none => [0, 0]
      | some .noImage => [1, 0]
      | some .badMarker => [2, 0]
      | some .badVersion => [3, 0]
      | some .badLength => [4, 0]
      | some .badCheck => [5, 0]
      | some (.badRange n) => [6, numByte n] := by
  cases fault with
  | none => rfl
  | some code => cases code <;> rfl

theorem numByte_getD_zero (o : Option Nat) : numByte (o.getD 0) = match o with
    | none => 0
    | some n => numByte n := by
  cases o <;> rfl

theorem map_numByte_getD (o : Option Nat) : (o.map numByte).getD 0xFF = match o with
    | none => 0xFF
    | some n => numByte n := by
  cases o <;> rfl

theorem frontCode_eq (queue : List Notice) : numByte ((queue.head?.map Notice.code).getD 0) = match queue with
    | [] => 0
    | .intent _ :: _ => 1
    | .settle _ :: _ => 2
    | .retract _ :: _ => 3
    | .summary :: _ => 4 := by
  cases queue with
  | nil => rfl
  | cons n queue => cases n <;> rfl

theorem kindCode_eq (kind : UnitKind) : numByte kind.code = match kind with
    | .car => 0
    | .van => 1
    | .lorry => 2
    | .trailer => 3
    | .coach => 4 := by
  cases kind <;> rfl

theorem recordCode_eq (state : RecordState) : numByte state.code = match state with
    | .pending => 0
    | .parked => 1
    | .leaving => 2 := by
  cases state <;> rfl

theorem orderCode_eq (order : OrderKind) : numByte order.code = match order with
    | .through => 0
    | .blind => 1 := by
  cases order <;> rfl

theorem substCode_eq (subst : SubstMode) : numByte subst.code = match subst with
    | .hold => 0
    | .bound => 1
    | .freeze => 2 := by
  cases subst <;> rfl

theorem switchModeCode_eq (mode : SwitchMode) : numByte mode.code = match mode with
    | .direct => 0
    | .line => 1
    | .request => 2 := by
  cases mode <;> rfl

theorem selectedCode_eq (selected : Staged) : numByte selected.code = match selected with
    | .a => 1
    | .b => 2 := by
  cases selected <;> rfl

theorem idDirByte_eq (id : IntentId) (dir : Direction) : idDirByte id dir = match dir with
    | .place => numByte id.val
    | .remove => numByte (id.val + 16) := by
  cases dir <;> rfl

/-- R161: the bitmap has the bit of each station of the set. -/
theorem stationBits_getLsbD (ns : List StationNo) (n : StationNo) : (stationBits ns).getLsbD n.val = ns.contains n := by
  have hfold : ∀ acc : Byte, (ns.foldl (fun acc m => acc ||| BitVec.twoPow 8 m.val) acc).getLsbD n.val =
      (acc.getLsbD n.val || ns.contains n) := by
    induction ns with
    | nil => simp
    | cons m ns ih =>
      intro acc
      rw [List.foldl_cons, ih, BitVec.getLsbD_or, BitVec.getLsbD_twoPow, List.contains_cons, Bool.or_assoc]
      congr 2
      simp [Fin.ext_iff, eq_comm, beq_eq_decide]
  rw [stationBits, hfold, show (0 : Byte).getLsbD n.val = false from BitVec.getLsbD_zero, Bool.false_or]

/-! ### READ STATUS (R161) -/

theorem statusBody_of_faulted {s : State} (h : s.control.station = .faulted) :
    statusBody s = [numByte s.control.station.code] ++ [numByte ((s.control.fault.map FaultCode.code).getD 0),
      numByte ((s.control.fault.map FaultCode.sectionCode).getD 0)] ++ List.replicate 39 0 ++ [1, 0, 0] := by
  have halarm : alarm s = true := by simp [alarm, h]
  simp only [statusBody, h, if_true, halarm]
  rfl

theorem statusBody_of_not_faulted {s : State} (h : s.control.station ≠ .faulted) :
    statusBody s = [numByte s.control.station.code] ++ [numByte ((s.control.fault.map FaultCode.code).getD 0),
      numByte ((s.control.fault.map FaultCode.sectionCode).getD 0)] ++
        [flagByte s.control.restoreMark, numByte ((s.image.map fun im => im.stationNo.val).getD 0),
          numByte ((s.image.map Image.laneCount).getD 0), flagByte s.units.lowered, flagByte s.plans.switchLevel] ++
        (beInt 4 s.units.sums.m ++ beInt 4 s.units.sums.t ++ beInt 4 s.units.sums.l ++ beInt 4 s.units.sums.v) ++
        beBytes 4 (recordMass s.units.records) ++ beBytes 2 s.units.freePool ++
        [numByte s.intake.length, flagByte (gateOpen s), numByte s.intents.open_.length,
          flagByte s.intents.hasUnannounced, numByte s.intents.counter.val, flagByte s.view.limitExcess,
          numByte s.bus.queue.length, numByte ((s.bus.queue.head?.map Notice.code).getD 0), numByte s.bus.attempts,
          s.bus.counter, stationBits s.peers.stray, numByte s.reports.length, flagByte (alarm s), flagByte (attn s),
          s.plans.generation] := by
  simp only [statusBody, if_neg h, sumsBytes, List.append_assoc, List.cons_append, List.nil_append]
  rfl

/-! ### READ SHIP VIEW (R162) -/

theorem excessBytes_eq (e : Excess) : e.toList.flatMap (beInt 6) =
    beInt 6 e.mHigh ++ beInt 6 e.tHigh ++ beInt 6 e.tLow ++ beInt 6 e.lHigh ++ beInt 6 e.lLow ++ beInt 6 e.vHigh := by
  simp [Excess.toList]

/-! ### READ LANE (R163) -/

theorem zipIdx_flatMap_eq {α β : Type} (l : List α) (first : Nat) (f : Nat → α → List β) :
    (l.zipIdx first).flatMap (fun x => f x.2 x.1) = (l.mapIdx fun i a => f (first + i) a).flatten := by
  rw [List.mapIdx_eq_zipIdx_map, List.zipIdx_eq_map_add, List.flatMap_map, List.flatMap_def]

theorem exitByte_eq (im : Image) (records : List UnitRecord) (lane : Nat) :
    ((exitIndex im records lane).map numByte).getD 0xFF =
      if onLane records lane = [] then 0xFF
      else
        match (im.lane lane).order with
        | .through => numByte 0
        | .blind => numByte ((onLane records lane).length - 1) := by
  unfold exitIndex
  cases onLane records lane <;> cases (im.lane lane).order <;> rfl

/-! ### READ UNIT (R164) -/

/-- A PARKED record carries no intent, any other its own. -/
theorem intentBytes_eq (im : Image) (state : RecordState) (found : Option Intent) :
    intentBytes im (if state = .parked then none else found) = match state, found with
      | .parked, _ => [0, 0, 0, 0, 0, 0, 0]
      | .pending, none => [0, 0, 0, 0, 0, 0, 0]
      | .leaving, none => [0, 0, 0, 0, 0, 0, 0]
      | .pending, some it | .leaving, some it =>
        [1, idDirByte it.id it.dir] ++
          match it.state with
          | .unannounced => [0] ++ beBytes 4 (1000 * im.lifetime)
          | .announced ms => [1] ++ beBytes 4 (1000 * im.lifetime - ms)
          | .overdue => [2, 0, 0, 0, 0] := by
  have hsome (it : Intent) : intentBytes im (some it) = [1, idDirByte it.id it.dir] ++ match it.state with
      | .unannounced => [0] ++ beBytes 4 (1000 * im.lifetime)
      | .announced ms => [1] ++ beBytes 4 (1000 * im.lifetime - ms)
      | .overdue => [2, 0, 0, 0, 0] := by
    cases hstate : it.state <;> simp only [intentBytes, hstate, lifetimeLeft, Nat.mul_comm im.lifetime] <;> rfl
  cases state with
  | parked => cases found <;> rfl
  | pending | leaving =>
    cases found with
    | none => rfl
    | some it => exact hsome it

/-! ### READ PEER (R165) -/

theorem lockCode_eq (k : Lock) : numByte k.code = match k with
    | .unheard => 0
    | .locked => 1
    | .doubtful => 2
    | .lost => 3 := by
  cases k <;> rfl

theorem lastSeqBytes_eq (lastSeq : Option Byte) : (lastSeq.map fun q => [0, q]).getD [0xFF, 0xFF] = match lastSeq with
    | none => [0xFF, 0xFF]
    | some q => [0, q] := by
  cases lastSeq <;> rfl

theorem peerBytes_eq (im : Image) (p : Peer) : peerBytes im p =
    [numByte p.lock.code] ++ (p.lastSeq.map fun q => [0, q]).getD [0xFF, 0xFF] ++
      (beInt 4 p.sums.m ++ beInt 4 p.sums.t ++ beInt 4 p.sums.l ++ beInt 4 p.sums.v) ++ beBytes 2 p.parked ++
      [numByte p.recorded.length] ++
      (p.recorded.map fun e =>
        [idDirByte e.id e.dir] ++ beInt 2 e.delta.m ++ beInt 4 e.delta.t ++ beInt 4 e.delta.l ++ beInt 4 e.delta.v).flatten ++
      silenceBytes im.silenceLimit p.silence := by
  simp only [peerBytes, sumsBytes, List.flatMap_def, List.append_assoc, List.cons_append, List.nil_append]
  rfl

theorem silenceBytes_eq (limit : Nat) (silence : Silence) : silenceBytes limit silence = match silence with
    | .stopped => [0xFF, 0xFF, 0xFF, 0xFF]
    | .running ms => beBytes 4 (limit - ms)
    | .atLimit => [0, 0, 0, 0] := by
  cases silence <;> rfl

/-! ### READ INTAKE (R166) and READ PLAN (R167) -/

theorem askCode_eq (ask : Ask) : [numByte ask.code] = match ask with
    | .arrival _ => [0]
    | .placedArrival _ => [0]
    | .departure _ => [1] := by
  cases ask <;> rfl

theorem entryStateBytes_eq (st : EntryState) : st.bytes = match st with
    | .waiting => [0, 0, 0xFF]
    | .held .laneState => [1, 1, 0xFF]
    | .held .profile => [1, 2, 0xFF]
    | .held .reservation => [1, 3, 0xFF]
    | .held .shipLimits => [1, 4, 0xFF]
    | .placing id => [2, 0, numByte id.val] := by
  cases st with
  | waiting | placing => rfl
  | held reason => cases reason <;> rfl

theorem intakeEntryBytes_eq (waitMs : Nat) (e : Entry) : intakeEntryBytes waitMs e =
    [numByte e.ask.code] ++ beBytes 4 e.tag.toNat ++ e.state.bytes ++
      beBytes 4 (if e.expired then 0 else waitMs - e.timer) ++ [flagByte e.expired] := by
  simp [intakeEntryBytes]

theorem planEntryBytes_eq (e : PlanEntry) : e.bytes =
    [flagByte e.closed, numByte (e.reserved.getD 0), (e.profile.map numByte).getD 0xFF] := rfl

theorem pendingBytes_eq (draw lane : Nat) (pending : Option PlanEntry) : pendingBytes draw lane pending =
    match pending with
    | none => [0xFF, Config.freeByte draw (2 * lane), Config.freeByte draw (2 * lane + 1)]
    | some e => e.bytes := by
  cases pending <;> rfl

theorem byte_two_lt_iff (code : Byte) : 2 < code.toNat ↔ ¬ (code = 0 ∨ code = 1 ∨ code = 2) := by
  simp only [byte_eq_iff]
  show _ ↔ ¬ (code.toNat = 0 ∨ code.toNat = 1 ∨ code.toNat = 2)
  omega

theorem planOfCode_eq (p : PlanStore) (code : Byte) : p.planOfCode code =
    if 2 < code.toNat then none else some (if code = 0 then p.active else if code = 1 then p.stagedA else p.stagedB) := by
  unfold PlanStore.planOfCode
  simp only [byte_two_lt_iff]
  by_cases h0 : code = 0
  · rw [if_pos h0, if_pos h0, if_neg (by tauto)]
  by_cases h1 : code = 1
  · rw [if_neg h0, if_neg h0, if_pos h1, if_pos h1, if_neg (by tauto)]
  by_cases h2 : code = 2
  · rw [if_neg h0, if_neg h0, if_neg h1, if_neg h1, if_pos h2, if_neg (by tauto)]
  · rw [if_neg h0, if_neg h1, if_neg h2, if_pos (by tauto)]

theorem planReply_eq {s : State} {im : Image} (him : s.image = some im) (code first : Byte) : planReply s code first =
    if 2 < code.toNat ∨ im.laneCount ≤ first.toNat then [0x08]
    else
      [0x00] ++ planBody s.fresh im s.plans
        (if code = 0 then s.plans.active else if code = 1 then s.plans.stagedA else s.plans.stagedB) (code == 0) first.toNat := by
  unfold planReply
  rw [him, planOfCode_eq]
  by_cases hcode : 2 < code.toNat
  · rw [if_pos hcode, if_pos (Or.inl hcode)]
    rfl
  by_cases hfirst : first.toNat < im.laneCount
  · rw [if_neg hcode, if_neg (not_or.mpr ⟨hcode, Nat.not_le.mpr hfirst⟩)]
    exact if_pos hfirst
  · rw [if_neg hcode, if_pos (Or.inr (Nat.not_lt.mp hfirst))]
    exact if_neg hfirst

/-- Without an image (R85, R163 to R167, R176). -/
theorem reads_of_image_none {s : State} (h : s.image = none) : shipViewBody s = List.replicate 141 0 ++ [0xFF] ∧
    (∀ lane first : Nat, laneReply s lane first = [0x08]) ∧ (∀ tag : Tag, unitReply s tag = [0x05]) ∧
    (∀ n : Byte, peerReply s n = if n.toNat < 8 then [0x00, n, 4] else [0x08]) ∧
    (s.intake = [] → intakeBody s = [0]) ∧ ∀ code first : Byte, planReply s code first = [0x08] := by
  refine ⟨by simp [shipViewBody, h], fun lane first => ?_, fun tag => ?_, fun n => ?_, fun hintake => ?_, fun code first => ?_⟩
  · simp only [laneReply, h]
    rfl
  · simp only [unitReply, h]
    rfl
  · unfold peerReply peerBody
    split
    case isTrue hlt =>
      simp only [h, numByte_toNat]
      rfl
    case isFalse => rfl
  · simp only [intakeBody, hintake]
    rfl
  · simp only [planReply, h]
    cases s.plans.planOfCode code <;> rfl

theorem peerReply_eq {s : State} {im : Image} (him : s.image = some im) (number : Byte) : peerReply s number =
    if h : number.toNat < 8 then
      [0x00, number] ++
        if ⟨number.toNat, h⟩ = im.stationNo then [0]
        else
          match s.peers.peers.find? fun p => p.number == ⟨number.toNat, h⟩ with
          | some p => [1] ++ peerBytes im p
          | none => if ⟨number.toNat, h⟩ ∈ s.peers.stray then [2] else [3]
    else [0x08] := by
  unfold peerReply peerBody
  refine dite_congr rfl (fun h => ?_) fun _ => rfl
  simp only [him, numByte_toNat]
  by_cases hown : (⟨number.toNat, h⟩ : StationNo) = im.stationNo
  · rw [if_pos hown, if_pos hown]
    rfl
  rw [if_neg hown, if_neg hown]
  cases s.peers.peers.find? fun p => p.number == ⟨number.toNat, h⟩ with
  | some p => rfl
  | none =>
    simp only [List.contains_eq_mem, decide_eq_true_eq]
    by_cases hstray : (⟨number.toNat, h⟩ : StationNo) ∈ s.peers.stray
    · simp only [if_pos hstray]
      rfl
    · simp only [if_neg hstray]
      rfl

theorem laneReply_eq {s : State} {im : Image} (him : s.image = some im) (lane first : Nat) : laneReply s lane first =
    if lane < im.laneCount then
      [0x00, numByte lane, numByte (im.lane lane).order.code] ++ beBytes 2 (im.lane lane).len ++
        [numByte (s.units.clearance (im.lane lane))] ++ beBytes 2 (occupied im.gap s.units.records lane) ++
        beInt 2 (freeLength im s.units.records lane) ++
        [numByte (onLane s.units.records lane).length, ((exitIndex im s.units.records lane).map numByte).getD 0xFF] ++
        ((((onLane s.units.records lane).drop first).take 8).mapIdx fun i r => laneRecordBytes (first + i) r).flatten
    else [0x08] := by
  simp only [laneReply, him, laneBody, zipIdx_flatMap_eq]
  rfl

theorem unitReply_eq {s : State} {im : Image} (him : s.image = some im) (tag : Tag) : unitReply s tag =
    match s.units.records.find? fun r => r.unit.tag == tag with
    | none => [0x05]
    | some r =>
      [0x00] ++ unitBytes r.unit ++ [numByte r.lane] ++ beBytes 2 r.offset ++ [numByte r.state.code] ++ beInt 2 r.contrib.m ++
        beInt 4 r.contrib.t ++ beInt 4 r.contrib.l ++ beInt 4 r.contrib.v ++
        intentBytes im (if r.state = .parked then none else s.intents.open_.find? fun it => it.tag == tag) := by
  unfold unitReply
  rw [him]
  cases hfind : s.units.find tag with
  | none =>
    rw [show s.units.records.find? (fun r => r.unit.tag == tag) = none from hfind]
    rfl
  | some r =>
    rw [show s.units.records.find? (fun r => r.unit.tag == tag) = some r from hfind, ← UnitStore.tag_of_find hfind]
    simp only [unitBody, doneWith, List.append_assoc, List.cons_append, List.nil_append]
    rfl

theorem planLaneBytes_eq (draw : Nat) (p : PlanStore) (plan : Plan) (code : Byte) (lane : Nat) :
    planLaneBytes draw p plan (code == 0) lane = (plan.entry lane).bytes ++
      if code = 0 then
        pendingBytes draw lane (p.lane lane).pending ++ [flagByte (p.lane lane).blocked, flagByte (p.lane lane).reported]
      else [] := by
  by_cases hcode : code = 0
  · rw [if_pos hcode, planLaneBytes, if_pos (beq_iff_eq.mpr hcode)]
  · rw [if_neg hcode, planLaneBytes, if_neg (fun h => hcode (beq_iff_eq.mp h))]

/-- Settles O16, reply by reply. -/
theorem readReplyShapes : Obligations.ReadReplyShapes := by
  intro s one flag six sums idDir kind parking station fault orFF orZero entry front
  refine ⟨fun h => ?_, fun h => ⟨stationBits s.peers.stray, stationBits_getLsbD _, ?_⟩, reads_of_image_none, fun im him => ?_⟩
  · rw [statusBody_of_faulted h, faultCodes_eq, stationCode_eq]
    rfl
  · rw [statusBody_of_not_faulted h, faultCodes_eq, stationCode_eq, frontCode_eq, numByte_getD_zero, numByte_getD_zero]
    rfl
  · intro subst switchMode selected
    refine ⟨?_, fun lane first => ?_, fun tag => ?_, fun number => ?_, ?_, fun code first => ?_⟩
    · simp only [shipViewBody, him, excessBytes_eq, substCode_eq, List.append_assoc]
      simp only [six, List.append_assoc]
      rfl
    · rw [laneReply_eq him, exitByte_eq, orderCode_eq]
      simp only [laneRecordBytes, kindCode_eq, recordCode_eq]
      rfl
    · rw [unitReply_eq him]
      cases s.units.records.find? fun r => r.unit.tag == tag with
      | none => rfl
      | some r =>
        dsimp only
        rw [intentBytes_eq, recordCode_eq, unitBytes, kindCode_eq, map_numByte_getD]
        simp only [idDirByte_eq, List.append_assoc]
        rfl
    · rw [peerReply_eq him]
      simp only [peerBytes_eq, lockCode_eq, lastSeqBytes_eq, silenceBytes_eq, idDirByte_eq]
      rfl
    · simp only [intakeBody, him, List.flatMap_def]
      rw [show intakeEntryBytes _ = _ from funext fun e => intakeEntryBytes_eq _ e]
      simp only [askCode_eq, entryStateBytes_eq, Image.waitMs, Option.map_some, Option.getD_some, Nat.mul_comm im.waitLimit]
      rfl
    · rw [planReply_eq him]
      simp only [planBody, List.flatMap_def]
      rw [show planLaneBytes _ _ _ _ = _ from funext fun e => planLaneBytes_eq _ _ _ _ e]
      simp only [pendingBytes_eq, planEntryBytes_eq, numByte_getD_zero, map_numByte_getD, switchModeCode_eq,
        selectedCode_eq]
      rfl

end Sys2Proof.Machine
end

section
/-! PROOFS. READ REPORT (R35, R169) and the records of the reports (section 11.3). -/

namespace Sys2Proof.Machine

open Sys2Proof.Safety

theorem refusedCode_eq (reason : RefusedReason) : numByte reason.code = match reason with
    | .dimensions => 1
    | .axle => 2
    | .power => 3
    | .room => 4
    | .order => 5
    | .apart => 6
    | .deckMass => 7
    | .notAtExit => 8
    | .waitLimit => 9 := by
  cases reason <;> rfl

theorem beBytes_eq_map (n x : Nat) : beBytes n x = (List.range n).map fun k => BitVec.ofNat 8 (x / 256 ^ (n - 1 - k)) := by
  induction n with
  | zero => rfl
  | succ n ih =>
    rw [beBytes, List.range_succ_eq_map, List.map_cons, List.map_map, ih]
    refine congrArg₂ List.cons rfl (List.map_congr_left fun k hk => ?_)
    rw [Function.comp, show n + 1 - 1 - (k + 1) = n - 1 - k by omega]

/-- R35: the refusal is a decision report, so that it is admitted. -/
theorem refuseMarked_eq (s : State) : refuseMarked s =
    match (if s.reports.length < 28 then s.intake.find? Entry.refusable else none) with
    | none => s
    | some e =>
      { s with
        reports := s.reports ++ [.refused e.tag .waitLimit]
        intake := s.intake.eraseP Entry.refusable } := by
  unfold refuseMarked
  by_cases hroom : s.reports.length < 28
  · rw [if_pos hroom, if_pos hroom]
    cases s.intake.find? Entry.refusable <;> rfl
  · rw [if_neg hroom, if_neg hroom]

/-- Settles O17. -/
theorem readReportOutcome : Obligations.ReadReportOutcome := by
  refine ⟨fun r => ?_, beBytes_eq_map, fun _ _ => rfl, fun s hr => ?_⟩
  · intro one why
    cases r with
    | refused tag reason =>
      rw [Report.bytes, refusedCode_eq]
      rfl
    | placed | departureCleared | overdue | clearanceConflict | laneNearFull | planSwitched | laneEntryApplied | limitExcess
    | excessCleared | peerLost | peerRegained | strayStation | duplicateNumber => rfl
  · show serve s readReport = _
    rw [serve_received s _ hr fun p => readReport_portFree s p, readReport_eq]
    by_cases hloading : s.control.station = .loading
    · rw [if_pos hloading, if_pos hloading]
      rfl
    rw [if_neg hloading, if_neg hloading]
    cases hreports : s.reports with
    | nil => rfl
    | cons r rest =>
      dsimp only
      rw [refuseMarked_eq]
      rfl

end Sys2Proof.Machine
end

section
/-! PROOFS. The wait limit (R34), the outcome of an arrival (R54 to R60) and what its evaluation does (R28 to R30, R58). -/

namespace Sys2Proof.Machine

open Sys2Proof.Safety

/-! ### The wait limit -/

theorem updateFirst_eq_modify {α : Type} (p : α → Bool) (f : α → α) (l : List α) :
    updateFirst p f l = match l.findIdx? p with
      | none => l
      | some i => l.modify i f := by
  induction l with
  | nil => rfl
  | cons a rest ih =>
    rw [updateFirst, List.findIdx?_cons, ih]
    cases p a with
    | true => rfl
    | false => cases rest.findIdx? p <;> rfl

theorem Entry.runsOut_eq (im : Image) (tag : Tag) : Entry.runsOut im tag =
    fun x => x.tag == tag && !x.expired && decide (1000 * im.waitLimit ≤ x.timer) := by
  funext e
  rw [Entry.runsOut, Entry.waitedOut, Image.waitMs, Nat.mul_comm, Bool.and_assoc]

theorem exec_waitLimitExpiry_of_image {s : State} {im : Image} (h : s.image = some im) (tag : Tag) :
    exec (.waitLimitExpiry tag) s = .next (match s.intake.find? (Entry.runsOut im tag) with
      | none => s
      | some e => waitOver im tag e s) := by
  show execWaitLimitExpiry tag s = _
  unfold execWaitLimitExpiry
  rw [h]
  dsimp only
  cases s.intake.find? (Entry.runsOut im tag) <;> rfl

/-- Settles O22. -/
theorem waitLimitOutcome : Obligations.WaitLimitOutcome := by
  refine ⟨fun α p f l => updateFirst_eq_modify p f l, fun tag s him => ?_, fun tag s im him => ?_⟩
  · show execWaitLimitExpiry tag s = _
    rw [execWaitLimitExpiry, him]
  · intro out
    rw [exec_waitLimitExpiry_of_image him, Entry.runsOut_eq]
    cases s.intake.find? out with
    | none => rfl
    | some e =>
      dsimp only
      rw [waitOver, Entry.runsOut_eq, Image.waitMs, Nat.mul_comm im.waitLimit]
      congr 1
      refine if_congr ?_ rfl rfl
      simp [Config.decisionBelow]

/-! ### The outcome of an arrival -/

/-- R55: the first of the lowest in the list. -/
theorem lowestScore_spec {s : State} {im : Image} {cs : List Candidate} {c : Candidate} (h : lowestScore s im cs = some c)
    (hsorted : cs.Pairwise fun a b => a.lane < b.lane) :
    ∀ d ∈ cs, score s im c < score s im d ∨ (score s im c = score s im d ∧ c.lane ≤ d.lane) := by
  induction cs generalizing c with
  | nil => cases h
  | cons a rest ih =>
    obtain ⟨hlanes, hrest⟩ := List.pairwise_cons.mp hsorted
    unfold lowestScore at h
    cases hlow : lowestScore s im rest with
    | none =>
      rw [hlow] at h
      cases h
      have hnil : rest = [] := by
        cases rest with
        | nil => rfl
        | cons b more =>
          unfold lowestScore at hlow
          cases hmore : lowestScore s im more with
          | none => simp [hmore] at hlow
          | some e =>
            simp only [hmore] at hlow
            split at hlow <;> cases hlow
      simp [hnil]
    | some e =>
      have hspec := ih hlow hrest
      have hlane := hlanes e (lowestScore_mem hlow)
      rw [hlow] at h
      dsimp only at h
      intro d hd
      split at h
      case isTrue hle =>
        cases h
        rcases List.mem_cons.mp hd with rfl | hd
        · exact .inr ⟨rfl, le_rfl⟩
        · have := hspec d hd
          have := hlanes d hd
          omega
      case isFalse hlt =>
        cases h
        rcases List.mem_cons.mp hd with rfl | hd
        · exact .inl (Nat.not_le.mp hlt)
        · exact hspec d hd

theorem lowestScore_eq_none {s : State} {im : Image} {cs : List Candidate} (h : lowestScore s im cs = none) : cs = [] := by
  cases cs with
  | nil => rfl
  | cons a rest =>
    unfold lowestScore at h
    cases hrest : lowestScore s im rest with
    | none =>
      rw [hrest] at h
      cases h
    | some e =>
      rw [hrest] at h
      dsimp only at h
      split at h <;> cases h

theorem candidates_sorted (s : State) (im : Image) (unit : UnitId) :
    (candidates s im unit).Pairwise fun a b => a.lane < b.lane :=
  List.pairwise_map.mpr List.pairwise_lt_range

theorem Check.higher_number (a b : Check) : (a.higher b).number = max a.number b.number := by
  unfold Check.higher
  split <;> omega

/-- The highest of the checks, and it is one of them or the start. -/
theorem foldl_higher_spec (checks : List Check) (start : Check) :
    (checks.foldl Check.higher start = start ∨ checks.foldl Check.higher start ∈ checks) ∧
      start.number ≤ (checks.foldl Check.higher start).number ∧
      ∀ k ∈ checks, k.number ≤ (checks.foldl Check.higher start).number := by
  induction checks generalizing start with
  | nil => exact ⟨.inl rfl, le_rfl, by simp⟩
  | cons a rest ih =>
    obtain ⟨hmem, hstart, hrest⟩ := ih (start.higher a)
    have hnumber := Check.higher_number start a
    rw [List.foldl_cons]
    refine ⟨?_, by omega, List.forall_mem_cons.mpr ⟨by omega, hrest⟩⟩
    rcases hmem with hmem | hmem
    · rw [hmem, Check.higher]
      split
      · exact .inr List.mem_cons_self
      · exact .inl rfl
    · exact .inr (List.mem_cons_of_mem _ hmem)

theorem Check.number_eq_of_holdReason {k : Check} {reason : HoldReason} (h : k.holdReason = some reason) :
    8 ≤ k.number ∧ (k, reason) ∈ [(Check.laneState, HoldReason.laneState), (.profile, .profile), (.reservation, .reservation),
      (.shipLimits, .shipLimits)] := by
  cases k <;> cases h <;> decide

theorem Check.fixed_of_holdReason {k : Check} (h : k.holdReason = none) :
    k.number ≤ 7 ∧ (k, k.refusedReason) ∈ [(Check.dimensions, RefusedReason.dimensions), (.axle, .axle), (.power, .power),
      (.room, .room), (.order, .order), (.apart, .apart), (.deckMass, .deckMass)] := by
  cases k <;> cases h <;> decide

theorem Check.one_le_number (k : Check) : 1 ≤ k.number := by
  cases k <;> decide

theorem Check.eq_dimensions_of_number_le {k : Check} (h : k.number ≤ 1) : k = .dimensions := by
  cases k with
  | dimensions => rfl
  | axle | power | room | order | apart | deckMass | laneState | profile | reservation | shipLimits =>
    exact absurd h (by decide)

/-- Of a list of checks that is not empty the highest is one. -/
theorem foldl_higher_mem {checks : List Check} (h : checks ≠ []) : checks.foldl Check.higher .dimensions ∈ checks := by
  obtain ⟨hmem, -, hle⟩ := foldl_higher_spec checks .dimensions
  rcases hmem with hmem | hmem
  · obtain ⟨k, hk⟩ := List.exists_mem_of_ne_nil checks h
    have hnumber := hle k hk
    rw [hmem] at hnumber ⊢
    rwa [Check.eq_dimensions_of_number_le hnumber] at hk
  · exact hmem

/-- The candidates that pass every check (R54). -/
def passing (s : State) (im : Image) (unit : UnitId) : List Candidate :=
  (candidates s im unit).filter fun c => (reached s im c).isNone

theorem mem_passing_iff (s : State) (im : Image) (unit : UnitId) (c : Candidate) :
    c ∈ passing s im unit ↔ c ∈ candidates s im unit ∧ reached s im c = none := by
  rw [passing, List.mem_filter, Option.isNone_iff_eq_none]

theorem outcomeOf_eq (s : State) (im : Image) (unit : UnitId) : outcomeOf s im unit =
    match (passing s im unit).find? fun c => some c.lane == unit.preferred with
    | some c => .place c
    | none =>
      match lowestScore s im (passing s im unit) with
      | some c => .place c
      | none => failOutcome ((candidates s im unit).filterMap (reached s im)) := rfl

/-- Settles O24: the preferred lane, else the lowest score, else the highest check. -/
theorem arrivalOutcome : Obligations.ArrivalOutcome := by
  intro s im unit hlanes cs
  have hpassing := mem_passing_iff s im unit
  rw [outcomeOf_eq]
  cases hpreferred : (passing s im unit).find? fun c => some c.lane == unit.preferred with
  | some c =>
    obtain ⟨hc, hnone⟩ := (hpassing c).mp (List.mem_of_find?_eq_some hpreferred)
    exact ⟨hc, hnone, .inl (beq_iff_eq.mp (List.find?_some (p := fun c : Candidate => some c.lane == unit.preferred) hpreferred)).symm⟩
  | none =>
    cases hlowest : lowestScore s im (passing s im unit) with
    | some c =>
      obtain ⟨hc, hnone⟩ := (hpassing c).mp (lowestScore_mem hlowest)
      refine ⟨hc, hnone, .inr fun d hd hdnone => ⟨fun hlane => ?_, ?_⟩⟩
      · exact List.find?_eq_none.mp hpreferred d ((hpassing d).mpr ⟨hd, hdnone⟩) (beq_iff_eq.mpr hlane.symm)
      · exact lowestScore_spec hlowest ((candidates_sorted s im unit).filter _) d ((hpassing d).mpr ⟨hd, hdnone⟩)
    | none =>
      have hfails (d : Candidate) (hd : d ∈ cs) : reached s im d ≠ none := fun hdnone => by
        have := (hpassing d).mpr ⟨hd, hdnone⟩
        rw [lowestScore_eq_none hlowest] at this
        cases this
      have hmem (k : Check) : k ∈ (candidates s im unit).filterMap (reached s im) ↔ ∃ d ∈ cs, reached s im d = some k :=
        List.mem_filterMap
      have hsome : (candidates s im unit).filterMap (reached s im) ≠ [] := by
        have hzero : candidateFor s im unit 0 ∈ cs := List.mem_map_of_mem (List.mem_range.mpr hlanes)
        obtain ⟨k, hk⟩ := Option.ne_none_iff_exists'.mp (hfails _ hzero)
        exact List.ne_nil_of_mem ((hmem k).mpr ⟨_, hzero, hk⟩)
      have htop := (hmem _).mp (foldl_higher_mem hsome)
      have hle (d : Candidate) (hd : d ∈ cs) (j : Check) (hj : reached s im d = some j) :=
        (foldl_higher_spec ((candidates s im unit).filterMap (reached s im)) .dimensions).2.2 j ((hmem j).mpr ⟨d, hd, hj⟩)
      dsimp only [failOutcome]
      cases hreason : (((candidates s im unit).filterMap (reached s im)).foldl Check.higher .dimensions).holdReason with
      | some reason =>
        obtain ⟨height, htable⟩ := Check.number_eq_of_holdReason hreason
        exact ⟨hfails, _, htop, height, htable, hle⟩
      | none =>
        obtain ⟨hseven, htable⟩ := Check.fixed_of_holdReason hreason
        refine ⟨fun d hd => ?_, _, htop, htable, hle⟩
        obtain ⟨j, hj⟩ := Option.ne_none_iff_exists'.mp (hfails d hd)
        exact ⟨j, hj, (hle d hd j hj).trans hseven⟩

/-! ### The evaluation of an arrival -/

theorem Entry.takeable_iff (e : Entry) : e.takeable = true ↔ e.state = .waiting ∧ e.expired = false := by
  simp [Entry.takeable]

theorem not_hasUnannounced_iff (t : IntentTable) : (!t.hasUnannounced) = true ↔ ∀ it ∈ t.open_, it.state ≠ .unannounced := by
  simp [IntentTable.hasUnannounced]

theorem gateOpen_iff {s : State} {im : Image} (him : s.image = some im) : gateOpen s = true ↔
    s.control.station = .joined ∧ (∀ it ∈ s.intents.open_, it.state ≠ .unannounced) ∧
      s.intents.open_.length < 4 ∧ s.reports.length < 28 ∧ (∀ p ∈ s.peers.peers, p.lock ≠ .doubtful) ∧
      (im.subst = .freeze → ∀ p ∈ s.peers.peers, p.lock ≠ .lost ∧ p.lock ≠ .unheard) := by
  unfold gateOpen
  rw [him]
  simp only [Bool.and_eq_true, beq_iff_eq, not_hasUnannounced_iff, decide_eq_true_eq, peersAllow_iff, and_assoc,
    Config.intentCap, Config.decisionBelow]

theorem gateOpen_of_image_none {s : State} (h : s.image = none) : gateOpen s = false := by
  rw [gateOpen, h]

theorem exec_evaluateArrival (s : State) : exec .evaluateArrival s = execEvaluateArrival s := rfl

theorem execEvaluateArrival_of_not_due {s : State} (h : arrivalDue s = none) : execEvaluateArrival s = .next s := by
  rw [execEvaluateArrival, h]
  cases s.image <;> rfl

theorem execEvaluateArrival_of_due {s : State} {im : Image} {u : UnitId} (him : s.image = some im) (hdue : arrivalDue s = some u) :
    execEvaluateArrival s = .next (applyArrival im u s) := by
  rw [execEvaluateArrival, him, hdue]

theorem execEvaluateDeparture_of_not_due {s : State} (h : departureDue s = none) : execEvaluateDeparture s = .next s := by
  rw [execEvaluateDeparture, h]
  cases s.image <;> rfl

theorem arrivalDue_of_taken {s : State} {u : UnitId} (hgate : gateOpen s = true)
    (htaken : (taken s).map Entry.ask = some (.arrival u)) : arrivalDue s = some u := by
  rw [arrivalDue, if_pos hgate, htaken]

theorem applyPlace_eq (im : Image) (c : Candidate) (s : State) : applyPlace im c s =
    settle
      { insertRecord im c.record s with
        intents := { open_ := s.intents.open_ ++ [⟨s.intents.nextId, .place, c.unit.tag, c.contrib, .unannounced⟩]
                     counter := s.intents.nextId }
        bus := s.bus.join (.intent ⟨s.intents.nextId, .place, c.contrib⟩)
        intake := updateFirst Entry.takeable
          (fun e => { e with ask := .placedArrival c.unit.tag, state := .placing s.intents.nextId }) s.intake } := by
  simp only [applyPlace, openIntent, updateTaken, insertRecord_frame]

/-- Settles O26. -/
theorem evaluateArrivalOutcome : Obligations.EvaluateArrivalOutcome := by
  refine ⟨Entry.takeable_iff, fun b n => ?_, fun s h => ?_, fun s h => ?_,
    fun s im u him => ⟨gateOpen_iff him, fun hgate htaken => ?_⟩⟩
  · rw [Bus.join]
    cases b.queue <;> rfl
  · refine execEvaluateArrival_of_not_due (Option.not_isSome_iff_eq_none.mp fun hdue => ?_)
    obtain ⟨hgate, u, htaken⟩ := (arrivalDue_isSome_iff s).mp hdue
    rcases h with h | h
    · exact absurd hgate (by simp [h])
    · exact h u htaken
  · refine execEvaluateDeparture_of_not_due (Option.not_isSome_iff_eq_none.mp fun hdue => ?_)
    obtain ⟨hgate, tag, r, htaken, hfind, hstate⟩ := (departureDue_isSome_iff s).mp hdue
    rcases h with h | h
    · exact absurd hgate (by simp [h])
    · exact h tag r htaken hfind hstate
  · rw [exec_evaluateArrival, execEvaluateArrival_of_due him (arrivalDue_of_taken hgate htaken), applyArrival]
    cases hout : outcomeOf s im u with
    | place c =>
      obtain rfl : c.unit = u := unit_of_outcomeOf hout
      dsimp only
      rw [applyPlace_eq]
      rfl
    | held reason => rfl
    | refused reason =>
      dsimp only
      rw [refuseTaken_eq]

end Sys2Proof.Machine
end

section
/-! PROOFS. What the views sum, the figures, the limit check (R73 to R80), no evaluation raises an excess (R78), and settling (R82). -/

namespace Sys2Proof.Machine

open Sys2Proof.Safety

/-! ### The four quantities -/

/-- The projections of a value per quantity. -/
def Quad.components : List (Quad → Int) := [Quad.m, Quad.t, Quad.l, Quad.v]

section
variable {q : Quad → Int} (hq : q ∈ Quad.components)
include hq

theorem Quad.component_cases : q = Quad.m ∨ q = Quad.t ∨ q = Quad.l ∨ q = Quad.v := by
  simpa [Quad.components] using hq

theorem Quad.component_add (a b : Quad) : q (a.add b) = q a + q b := by
  rcases Quad.component_cases hq with rfl | rfl | rfl | rfl <;> rfl

theorem Quad.component_sum (l : List Quad) : q (Quad.sum l) = (l.map q).sum := by
  induction l with
  | nil => rcases Quad.component_cases hq with rfl | rfl | rfl | rfl <;> rfl
  | cons a rest ih => rw [Quad.sum, Quad.component_add hq, ih, List.map_cons, List.sum_cons]

theorem Quad.component_low (a : Quad) : q a.low = min 0 (q a) := by
  rcases Quad.component_cases hq with rfl | rfl | rfl | rfl <;> rfl

theorem Quad.component_high (a : Quad) : q a.high = max 0 (q a) := by
  rcases Quad.component_cases hq with rfl | rfl | rfl | rfl <;> rfl

theorem Quad.component_midpoint (b : Bounds) : q (midpoint b) = (q b.lo + q b.hi).tdiv 2 := by
  rcases Quad.component_cases hq with rfl | rfl | rfl | rfl <;> rfl

end

theorem countedByBounds_iff (im : Image) (p : Peer) :
    countedByBounds im.subst p.lock = true ↔ im.subst = .bound ∧ (p.lock = .lost ∨ p.lock = .unheard) := by
  simp [countedByBounds, Lock.untrusted]

section
variable {q : Quad → Int} (hq : q ∈ Quad.components)
include hq

/-- A peer's term in a view, per quantity: by its bounds, or its sums and what its recorded intents add. -/
theorem peerTerm_component (byBounds : Bool) (bound sums : Quad) (deltas : List Quad) :
    q (if byBounds then bound else sums.add (Quad.sum deltas)) = if byBounds then q bound else q sums + (deltas.map q).sum := by
  rw [apply_ite q, Quad.component_add hq, Quad.component_sum hq]

theorem peerLow_component (im : Image) (p : Peer) : q (peerLow im p) =
    if im.subst = .bound ∧ (p.lock = .lost ∨ p.lock = .unheard) then q (im.boundsOf p.number).lo
    else q p.sums + ((p.recorded.map fun e => q e.delta).map (min 0)).sum := by
  rw [peerLow, peerTerm_component hq]
  refine if_congr (countedByBounds_iff im p) rfl ?_
  simp only [List.map_map, Function.comp_def, Quad.component_low hq]

theorem peerHigh_component (im : Image) (p : Peer) : q (peerHigh im p) =
    if im.subst = .bound ∧ (p.lock = .lost ∨ p.lock = .unheard) then q (im.boundsOf p.number).hi
    else q p.sums + ((p.recorded.map fun e => q e.delta).map (max 0)).sum := by
  rw [peerHigh, peerTerm_component hq]
  refine if_congr (countedByBounds_iff im p) rfl ?_
  simp only [List.map_map, Function.comp_def, Quad.component_high hq]

theorem peerExpected_component (im : Image) (p : Peer) : q (peerExpected im p) =
    if im.subst = .bound ∧ (p.lock = .lost ∨ p.lock = .unheard) then
      (q (im.boundsOf p.number).lo + q (im.boundsOf p.number).hi).tdiv 2
    else q p.sums + (p.recorded.map fun e => q e.delta).sum := by
  rw [peerExpected, peerTerm_component hq]
  refine if_congr (countedByBounds_iff im p) (Quad.component_midpoint hq _) ?_
  simp only [List.map_map, Function.comp_def]

theorem viewLow_component (s : State) (im : Image) (skip : Option IntentId) (cand : Quad) : q (viewLow s im skip cand) =
    q s.units.sums + (((otherIntents s skip).map fun it => q it.delta).map (min 0)).sum + q cand +
      (s.peers.peers.map fun p => q (peerLow im p)).sum := by
  simp only [viewLow, Quad.component_add hq, Quad.component_sum hq, List.map_map, Function.comp_def, Quad.component_low hq]

theorem viewHigh_component (s : State) (im : Image) (skip : Option IntentId) (cand : Quad) : q (viewHigh s im skip cand) =
    q s.units.sums + (((otherIntents s skip).map fun it => q it.delta).map (max 0)).sum + q cand +
      (s.peers.peers.map fun p => q (peerHigh im p)).sum := by
  simp only [viewHigh, Quad.component_add hq, Quad.component_sum hq, List.map_map, Function.comp_def, Quad.component_high hq]

theorem expectedView_component (s : State) (im : Image) (cand : Quad) : q (expectedView s im cand) =
    q s.units.sums + (s.intents.open_.map fun it => q it.delta).sum + q cand +
      (s.peers.peers.map fun p => q (peerExpected im p)).sum := by
  simp only [expectedView, Quad.component_add hq, Quad.component_sum hq, List.map_map, Function.comp_def]

end

/-! ### The figures -/

/-- The nearest whole number of a quotient, half away from zero. -/
theorem roundDiv_nearest (n : Int) {d : Int} (h : 0 < d) :
    if 0 ≤ n then d * (2 * roundDiv n d - 1) ≤ 2 * n ∧ 2 * n < d * (2 * roundDiv n d + 1)
    else d * (2 * roundDiv n d - 1) < 2 * n ∧ 2 * n ≤ d * (2 * roundDiv n d + 1) := by
  have hquotient (k : Int) : d * (2 * (k / (2 * d))) ≤ k ∧ k < d * (2 * (k / (2 * d))) + 2 * d := by
    have hdiv : d * (2 * (k / (2 * d))) + k % (2 * d) = k := by
      rw [← mul_assoc, mul_comm d 2]
      exact Int.mul_ediv_add_emod k (2 * d)
    have hnonneg := Int.emod_nonneg k (show 2 * d ≠ 0 by omega)
    have hlt := Int.emod_lt_of_pos k (show 0 < 2 * d by omega)
    omega
  unfold roundDiv
  split_ifs with hn
  · obtain ⟨hle, hlt⟩ := hquotient (2 * n + d)
    constructor <;> linarith
  · obtain ⟨hle, hlt⟩ := hquotient (2 * -n + d)
    constructor <;> linarith

/-! ### The limit check -/

theorem viewLow_cand (s : State) (im : Image) (skip : Option IntentId) (cand : Quad) {q : Quad → Int} (hq : q ∈ Quad.components) :
    q (viewLow s im skip cand) = q (viewLow s im skip Quad.zero) + q cand := by
  have hzero : q Quad.zero = 0 := by
    rcases Quad.component_cases hq with rfl | rfl | rfl | rfl <;> rfl
  rw [viewLow_component hq, viewLow_component hq, hzero]
  ring

theorem viewHigh_cand (s : State) (im : Image) (skip : Option IntentId) (cand : Quad) {q : Quad → Int} (hq : q ∈ Quad.components) :
    q (viewHigh s im skip cand) = q (viewHigh s im skip Quad.zero) + q cand := by
  have hzero : q Quad.zero = 0 := by
    rcases Quad.component_cases hq with rfl | rfl | rfl | rfl <;> rfl
  rw [viewHigh_component hq, viewHigh_component hq, hzero]
  ring

theorem Quad.m_mem : Quad.m ∈ Quad.components := by simp [Quad.components]
theorem Quad.t_mem : Quad.t ∈ Quad.components := by simp [Quad.components]
theorem Quad.l_mem : Quad.l ∈ Quad.components := by simp [Quad.components]
theorem Quad.v_mem : Quad.v ∈ Quad.components := by simp [Quad.components]

theorem Excess.noneGrows_iff (e f : Excess) : e.noneGrows f = true ↔ e.mHigh ≤ f.mHigh ∧ e.tHigh ≤ f.tHigh ∧ e.tLow ≤ f.tLow ∧
    e.lHigh ≤ f.lHigh ∧ e.lLow ≤ f.lLow ∧ e.vHigh ≤ f.vHigh := by
  simp [Excess.noneGrows, and_assoc]

theorem Excess.any_iff (e : Excess) : e.any = true ↔
    0 < e.mHigh ∨ 0 < e.tHigh ∨ 0 < e.tLow ∨ 0 < e.lHigh ∨ 0 < e.lLow ∨ 0 < e.vHigh := by
  simp [Excess.any, or_assoc]

theorem Excess.any_eq_false_iff (e : Excess) : e.any = false ↔
    e.mHigh ≤ 0 ∧ e.tHigh ≤ 0 ∧ e.tLow ≤ 0 ∧ e.lHigh ≤ 0 ∧ e.lLow ≤ 0 ∧ e.vHigh ≤ 0 := by
  rw [← Bool.not_eq_true, Excess.any_iff]
  omega

/-- The excesses with a candidate, from the view without one. -/
theorem excessOf_cand (s : State) (im : Image) (skip : Option IntentId) (cand : Quad) :
    excessOf im s.view (viewLow s im skip cand) (viewHigh s im skip cand) =
      excessOf im s.view ((viewLow s im skip Quad.zero).add cand) ((viewHigh s im skip Quad.zero).add cand) := by
  simp only [excessOf, viewLow_cand s im skip cand Quad.t_mem, viewLow_cand s im skip cand Quad.l_mem,
    viewHigh_cand s im skip cand Quad.m_mem, viewHigh_cand s im skip cand Quad.t_mem, viewHigh_cand s im skip cand Quad.l_mem,
    viewHigh_cand s im skip cand Quad.v_mem, Quad.add]

theorem limitCheck_iff (s : State) (im : Image) (skip : Option IntentId) (cand : Quad) :
    let lo := viewLow s im skip Quad.zero
    let hi := viewHigh s im skip Quad.zero
    limitCheck s im skip cand = true ↔
      max 0 (hi.m + cand.m - im.mMax) ≤ max 0 (hi.m - im.mMax) ∧
      max 0 (hi.t + cand.t - im.tMax) ≤ max 0 (hi.t - im.tMax) ∧
      max 0 (-im.tMax - (lo.t + cand.t)) ≤ max 0 (-im.tMax - lo.t) ∧
      max 0 (hi.l + cand.l - s.view.wMax) ≤ max 0 (hi.l - s.view.wMax) ∧
      max 0 (s.view.wMin - (lo.l + cand.l)) ≤ max 0 (s.view.wMin - lo.l) ∧
      max 0 (hi.v + cand.v - im.vMax) ≤ max 0 (hi.v - im.vMax) := by
  intro lo hi
  rw [limitCheck, excessOf_cand, Excess.noneGrows_iff]
  rfl

/-- R77: while no side is positive, none grows exactly when none becomes positive. -/
theorem noneGrows_iff_of_any_eq_false {e f : Excess} (h : f.any = false) (hf : 0 ≤ f.mHigh ∧ 0 ≤ f.tHigh ∧ 0 ≤ f.tLow ∧
    0 ≤ f.lHigh ∧ 0 ≤ f.lLow ∧ 0 ≤ f.vHigh) : e.noneGrows f = true ↔ e.any = false := by
  rw [Excess.any_eq_false_iff] at h
  rw [Excess.noneGrows_iff, Excess.any_eq_false_iff]
  omega

theorem excessOf_nonneg (im : Image) (w : ShipView) (lo hi : Quad) : let e := excessOf im w lo hi
    0 ≤ e.mHigh ∧ 0 ≤ e.tHigh ∧ 0 ≤ e.tLow ∧ 0 ≤ e.lHigh ∧ 0 ≤ e.lLow ∧ 0 ≤ e.vHigh :=
  ⟨le_max_left _ _, le_max_left _ _, le_max_left _ _, le_max_left _ _, le_max_left _ _, le_max_left _ _⟩

/-- Settles O29. -/
theorem limitCheckRule : Obligations.LimitCheckRule := by
  intro s im skip cand
  refine ⟨fun q hq => ⟨?_, ?_, ?_⟩, ?_, limitCheck_iff s im skip cand, fun h => ?_⟩
  · rw [viewLow_component hq]
    simp only [peerLow_component hq]
    rfl
  · rw [viewHigh_component hq]
    simp only [peerHigh_component hq]
    rfl
  · rw [expectedView_component hq]
    simp only [peerExpected_component hq]
    rfl
  · intro e w sign nearest
    refine ⟨fun h => ?_, fun h => ⟨_, roundDiv_nearest _ h, ?_⟩, fun h => ?_, fun h => ⟨_, roundDiv_nearest _ (sub_pos.mpr h), ?_⟩,
      fun h => ⟨_, roundDiv_nearest _ h, rfl⟩, fun h => ⟨_, roundDiv_nearest _ h, rfl⟩⟩
    · exact if_pos h
    · exact if_neg (ne_of_gt h)
    · exact if_pos h
    · exact if_neg (ne_of_lt h)
  · rw [limitCheck]
    exact noneGrows_iff_of_any_eq_false h (excessOf_nonneg _ _ _ _)

/-! ### No evaluation raises an excess -/

theorem settle_sameSides (s : State) : SameSides s (settle s) := by
  unfold settle
  split
  · exact ⟨rfl, rfl, rfl, rfl, fun _ => rfl, fun _ => rfl⟩
  · dsimp only
    split
    · exact ⟨rfl, rfl, rfl, rfl, fun _ => rfl, fun _ => rfl⟩
    · exact ⟨rfl, rfl, rfl, rfl, fun _ => rfl, fun _ => rfl⟩

theorem settle_limitExcess {s : State} {im : Image} (him : s.image = some im) :
    (settle s).view.limitExcess = (excessNow s im).any := by
  unfold settle
  rw [him]
  dsimp only
  split
  case isTrue h => exact h.symm
  case isFalse => rfl

/-- What opening an intent leaves the view made of, its delta one more. -/
structure Opens (delta : Quad) (s u : State) : Prop where
  view : u.view = s.view
  sums : u.units.sums = s.units.sums
  deltas : u.intents.open_.map Intent.delta = s.intents.open_.map Intent.delta ++ [delta]
  peers : u.peers.peers = s.peers.peers

theorem Opens.deltas_map {delta : Quad} {s u : State} (h : Opens delta s u) (q : Quad → Int) :
    u.intents.open_.map (fun it => q it.delta) = s.intents.open_.map (fun it => q it.delta) ++ [q delta] := by
  simpa only [List.map_map, List.map_append, List.map_cons, List.map_nil, Function.comp_def] using congrArg (List.map q) h.deltas

theorem Opens.low {delta : Quad} {s u : State} (h : Opens delta s u) (im : Image) {q : Quad → Int} (hq : q ∈ Quad.components) :
    q (viewLow u im none Quad.zero) = q (viewLow s im none Quad.zero) + min 0 (q delta) := by
  rw [viewLow_component hq, viewLow_component hq, otherIntents_none, otherIntents_none, h.deltas_map q, h.sums, h.peers]
  simp only [List.map_append, List.sum_append, List.map_cons, List.map_nil, List.sum_cons, List.sum_nil]
  ring

theorem Opens.high {delta : Quad} {s u : State} (h : Opens delta s u) (im : Image) {q : Quad → Int} (hq : q ∈ Quad.components) :
    q (viewHigh u im none Quad.zero) = q (viewHigh s im none Quad.zero) + max 0 (q delta) := by
  rw [viewHigh_component hq, viewHigh_component hq, otherIntents_none, otherIntents_none, h.deltas_map q, h.sums, h.peers]
  simp only [List.map_append, List.sum_append, List.map_cons, List.map_nil, List.sum_cons, List.sum_nil]
  ring

theorem highSide_le {x limit delta : Int} (h : max 0 (x + delta - limit) ≤ max 0 (x - limit)) :
    max 0 (x + max 0 delta - limit) ≤ max 0 (x - limit) := by
  omega

theorem lowSide_le {x limit delta : Int} (h : max 0 (limit - (x + delta)) ≤ max 0 (limit - x)) :
    max 0 (limit - (x + min 0 delta)) ≤ max 0 (limit - x) := by
  omega

/-- R78: an intent whose delta passed the limit check leaves no side larger, its interval reaching from 0 to the delta. -/
theorem noneGrows_of_opens {delta : Quad} {s u : State} (h : Opens delta s u) {im : Image}
    (hcheck : limitCheck s im none delta = true) : (excessNow u im).noneGrows (excessNow s im) = true := by
  obtain ⟨hmHigh, htHigh, htLow, hlHigh, hlLow, hvHigh⟩ := (limitCheck_iff s im none delta).mp hcheck
  rw [Excess.noneGrows_iff]
  simp only [excessNow, excessOf, h.view, h.low im Quad.t_mem, h.low im Quad.l_mem, h.high im Quad.m_mem, h.high im Quad.t_mem,
    h.high im Quad.l_mem, h.high im Quad.v_mem]
  exact ⟨highSide_le hmHigh, highSide_le htHigh, lowSide_le htLow, highSide_le hlHigh, lowSide_le hlLow, highSide_le hvHigh⟩

theorem Excess.noneGrows_refl (e : Excess) : e.noneGrows e = true :=
  (Excess.noneGrows_iff e e).mpr ⟨le_rfl, le_rfl, le_rfl, le_rfl, le_rfl, le_rfl⟩

theorem any_eq_false_of_noneGrows {e f : Excess} (h : e.noneGrows f = true) (hf : f.any = false) : e.any = false := by
  rw [Excess.noneGrows_iff] at h
  rw [Excess.any_eq_false_iff] at hf ⊢
  omega

/-- What R78 says of a change. -/
def RaisesNone (im : Image) (s t : State) : Prop :=
  (excessNow t im).noneGrows (excessNow s im) = true ∧
    (ExcessAgrees s → s.view.limitExcess = false → t.view.limitExcess = false)

theorem raisesNone_of_left (im : Image) {s t : State} (h : ViewLeft s t) : RaisesNone im s t := by
  refine ⟨?_, fun _ hfalse => by rwa [h.view]⟩
  rw [excessNow_of_sameSides h.sameSides]
  exact Excess.noneGrows_refl _

theorem raisesNone_refl (im : Image) (s : State) : RaisesNone im s s := raisesNone_of_left im ⟨rfl, rfl, rfl, rfl, rfl⟩

theorem raisesNone_updateTaken (im : Image) (f : Entry → Entry) (s : State) : RaisesNone im s (updateTaken f s) :=
  raisesNone_of_left im ⟨rfl, rfl, rfl, rfl, rfl⟩

theorem raisesNone_refuseTaken (im : Image) (tag : Tag) (reason : RefusedReason) (s : State) :
    RaisesNone im s (refuseTaken tag reason s) :=
  raisesNone_of_left im ⟨rfl, rfl, rfl, rfl, rfl⟩

theorem raisesNone_settle {im : Image} {s u : State} (him : s.image = some im) (hu : u.image = some im)
    (h : (excessNow u im).noneGrows (excessNow s im) = true) : RaisesNone im s (settle u) := by
  refine ⟨by rwa [excessNow_of_sameSides (settle_sameSides u)], fun hagrees hfalse => ?_⟩
  rw [settle_limitExcess hu]
  refine any_eq_false_of_noneGrows h ?_
  unfold ExcessAgrees at hagrees
  rw [him] at hagrees
  exact hagrees.symm.trans hfalse

theorem limitCheck_of_reached_none {s : State} {im : Image} {c : Candidate} (h : reached s im c = none) :
    limitCheck s im c.skip c.contrib = true :=
  (Check.answer_iff_passes s im c .shipLimits).mpr ((reached_eq_none_iff s im c).mp h .shipLimits)

theorem raisesNone_applyPlace {im : Image} {s : State} {c : Candidate} (him : s.image = some im) (hskip : c.skip = none)
    (hcheck : limitCheck s im c.skip c.contrib = true) : RaisesNone im s (applyPlace im c s) := by
  rw [hskip] at hcheck
  rw [applyPlace_eq]
  refine raisesNone_settle him (by simpa using him) (noneGrows_of_opens (delta := c.contrib) ?_ hcheck)
  constructor <;> simp [Candidate.record, UnitRecord.counts]

theorem raisesNone_applyArrival {im : Image} {s : State} (him : s.image = some im) (unit : UnitId) :
    RaisesNone im s (applyArrival im unit s) := by
  unfold applyArrival
  cases hout : outcomeOf s im unit with
  | place c =>
    obtain ⟨hmem, hreached⟩ := outcomeOf_place hout
    obtain ⟨lane, -, rfl⟩ := (mem_candidates_iff s im unit c).mp hmem
    exact raisesNone_applyPlace him rfl (limitCheck_of_reached_none hreached)
  | held reason =>
    dsimp only
    exact raisesNone_updateTaken im _ s
  | refused reason =>
    dsimp only
    exact raisesNone_refuseTaken im _ _ s

theorem raisesNone_applyDeparture {im : Image} {s : State} (him : s.image = some im) (r : UnitRecord) :
    RaisesNone im s (applyDeparture im r s) := by
  unfold applyDeparture
  split_ifs with hexit hblock hlimit
  · exact raisesNone_refuseTaken im _ _ s
  · exact raisesNone_updateTaken im _ s
  · exact raisesNone_updateTaken im _ s
  · rw [applyRemove_eq]
    refine raisesNone_settle him him (noneGrows_of_opens (delta := r.contrib.neg) ?_ (by simpa using hlimit))
    constructor <;> simp

/-- Settles O30. -/
theorem evaluationNeverRaisesExcess : Obligations.EvaluationNeverRaisesExcess := by
  refine ⟨Excess.noneGrows_iff, fun s t im him h => ?_⟩
  show RaisesNone im s t
  rcases h with h | h
  · rw [exec_evaluateArrival] at h
    cases hdue : arrivalDue s with
    | none =>
      rw [execEvaluateArrival_of_not_due hdue] at h
      cases h
      exact raisesNone_refl im s
    | some u =>
      rw [execEvaluateArrival_of_due him hdue] at h
      cases h
      exact raisesNone_applyArrival him u
  · rw [exec_evaluateDeparture] at h
    cases hdue : departureDue s with
    | none =>
      rw [execEvaluateDeparture_of_not_due hdue] at h
      cases h
      exact raisesNone_refl im s
    | some r =>
      have hexec : execEvaluateDeparture s = .next (applyDeparture im r s) := by rw [execEvaluateDeparture, him, hdue]
      rw [hexec] at h
      cases h
      exact raisesNone_applyDeparture him r

/-! ### Settling, admitting, releasing, and the output lines -/

theorem excess_sides_bits (e : Excess) : (List.range 8).map e.sides.getLsbD =
    [decide (0 < e.mHigh), decide (0 < e.tHigh), decide (0 < e.tLow), decide (0 < e.lHigh), decide (0 < e.lLow), decide (0 < e.vHigh),
      false, false] := by
  have hbits (m t u l k v : Bool) : (List.range 8).map ((if m then 1#8 else 0#8) ||| (if t then 2#8 else 0#8) |||
      (if u then 4#8 else 0#8) ||| (if l then 8#8 else 0#8) ||| (if k then 16#8 else 0#8) ||| (if v then 32#8 else 0#8)).getLsbD =
      [m, t, u, l, k, v, false, false] := by
    revert m t u l k v
    decide
  rw [← hbits]
  simp only [Excess.sides, decide_eq_true_eq]

theorem settle_of_image {s : State} {im : Image} (him : s.image = some im) : settle s =
    if (excessNow s im).any = s.view.limitExcess then s
    else if (excessNow s im).any then
      { s with view := { s.view with limitExcess := true }, reports := admitted (.limitExcess (excessNow s im).sides) s.reports }
    else { s with view := { s.view with limitExcess := false }, reports := admitted .excessCleared s.reports } := by
  unfold settle
  split
  case h_1 hnone => cases hnone.symm.trans him
  case h_2 im' him' =>
    cases him'.symm.trans him
    dsimp only
    cases (excessNow s im).any <;> rfl

theorem admitted_eq (r : Report) (q : List Report) : admitted r q = match r with
    | .placed _ _ _ _ _ => q ++ [r]
    | .departureCleared _ _ => q ++ [r]
    | .refused _ _ => q ++ [r]
    | _ => if q.length < 24 then q ++ [r] else q := by
  cases r with
  | placed | departureCleared | refused => exact admitted_decision rfl q
  | overdue | clearanceConflict | laneNearFull | planSwitched | laneEntryApplied | limitExcess | excessCleared | peerLost
  | peerRegained | strayStation | duplicateNumber => exact admitted_status rfl q

theorem alarmAsserted_iff (s : State) :
    alarm s = true ↔ s.view.limitExcess = true ∨ s.control.station = .faulted ∨ s.control.station = .quiet := by
  simp [alarm, or_assoc]

theorem attn_iff (s : State) : attn s = true ↔ s.reports ≠ [] := by
  simp [attn]

theorem attnDrive_eq (s : State) : attnDrive s = if s.reports = [] then .low else .high := by
  unfold attnDrive
  simp only [attn_iff, ite_not]

theorem alarmDrive_eq (s : State) : alarmDrive s = match s.image with
    | none => if alarm s then .low else .released
    | some im =>
      match im.openDrain, im.activeHigh, alarm s with
      | _, true, false => .low
      | _, false, true => .low
      | true, true, true => .released
      | true, false, false => .released
      | false, true, true => .high
      | false, false, false => .high := by
  unfold alarmDrive
  cases s.image with
  | none => cases alarm s <;> rfl
  | some im =>
    dsimp only [Option.map_some, Option.getD_some]
    cases im.openDrain <;> cases im.activeHigh <;> cases alarm s <;> rfl

theorem Entry.release_held {e : Entry} {reason : HoldReason} (h : e.state = .held reason) :
    e.release = { e with state := .waiting } := by
  rw [Entry.release, h]

theorem Entry.release_of_not_held {e : Entry} (h : ∀ reason, e.state ≠ .held reason) : e.release = e := by
  unfold Entry.release
  split
  case h_1 reason hstate => exact absurd hstate (h reason)
  case h_2 | h_3 => rfl

/-- Settles O31. -/
theorem settleAdmitRelease : Obligations.SettleAdmitRelease := by
  refine ⟨fun _ _ _ _ => rfl, fun _ _ => rfl, fun e => ⟨Excess.any_iff e, excess_sides_bits e⟩, fun s him => ?_, fun _ => rfl,
    fun _ _ => rfl, fun s im him => settle_of_image him, admitted_eq,
    fun e => ⟨fun _ => Entry.release_held, Entry.release_of_not_held⟩,
    fun s => ⟨alarmAsserted_iff s, attn_iff s, attnDrive_eq s, alarmDrive_eq s⟩⟩
  rw [settle, him]

end Sys2Proof.Machine
end

section
/-! PROOFS. The closures (R95 to R102), the forced departure (R100), and the cancellation of an intent (R91). -/

namespace Sys2Proof.Machine

open Sys2Proof.Safety

/-! ### The closures -/

theorem Intent.isAnnounced_iff (it : Intent) : it.isAnnounced = true ↔ it.state ≠ .unannounced := by
  simp [Intent.isAnnounced]

theorem answerWith_requestClosure (s : State) (tag : Tag) (want : RecordState)
    (close : Image → UnitRecord → Intent → State → State) :
    answerWith s (requestClosure tag want close s) = closureOutcome s tag want fun im r it => close im r it s := by
  unfold requestClosure closureOutcome
  cases s.image with
  | none => rfl
  | some im =>
    dsimp only
    rw [answerWith_ite]
    refine if_congr (serving_eq_false_iff _) rfl ?_
    cases s.units.find tag with
    | none => rfl
    | some r =>
      cases s.intents.ofTag tag with
      | none => rfl
      | some it =>
        dsimp only
        rw [answerWith_ite]
        exact if_congr (and_congr_right fun _ => Intent.isAnnounced_iff it) rfl rfl

/-- A closure request received, with what each record and intent found gives. -/
theorem serveCode_requestClosure {s : State} (hr : Received s) (tag : Tag) (want : RecordState)
    {close : Image → UnitRecord → Intent → State → State}
    (hclose : ∀ im r it s p, close im r it (s.withPort p) = (close im r it s).withPort p) :
    serveCode s (requestClosure tag want close) = closureOutcome s tag want fun im r it => close im r it s := by
  rw [(requestClosure_portFree tag want hclose).serveCode_received hr, answerWith_requestClosure]

theorem removeRecord_of_find {im : Image} {r : UnitRecord} {s : State} (h : s.units.find r.unit.tag = some r) :
    removeRecord im r s = compareNearFull im r.lane
      { s with
        units := { s.units with
          records := s.units.records.filter fun x => x.unit.tag != r.unit.tag
          sums := if r.state = .pending then s.units.sums else s.units.sums.add r.contrib.neg } } := by
  rw [removeRecord, UnitStore.remove_of_find h]
  cases hstate : r.state <;> simp [UnitRecord.counts, hstate]

/-- Settles O32. -/
theorem Intent.closureOutcome : Obligations.ClosureOutcome := by
  refine ⟨⟨fun _ _ => ⟨rfl, rfl⟩, fun _ _ => rfl, fun _ _ => rfl⟩, fun im r s h => removeRecord_of_find h, fun _ _ => rfl,
    fun _ _ _ => rfl, fun tag s hr => ⟨?_, ?_, ?_, ?_⟩⟩
  · exact serveCode_requestClosure hr tag .pending closeParked_withPort
  · rw [show exec (.reportAbandoned tag) s = _ from serveCode_requestClosure hr tag .pending closeAbandoned_withPort]
    simp only [closeAbandoned, freeIntent, IntentTable.free, removeRecord_frame]
  · rw [show exec (.reportDeparted tag) s = _ from serveCode_requestClosure hr tag .leaving closeDeparted_withPort]
    simp only [closeDeparted, freeIntent, IntentTable.free, removeRecord_frame]
  · rw [show exec (.reportStayed tag) s = _ from serveCode_requestClosure hr tag .leaving closeStayed_withPort]
    simp only [closeStayed, freeIntent, returnRecord, UnitStore.putBack, IntentTable.free, Bool.and_eq_true, beq_iff_eq]

/-! ### The forced departure -/

theorem forceOut_eq (im : Image) (r : UnitRecord) (t : State) : forceOut im r t =
    { removeRecord im r t with
      intake := t.intake.eraseP fun e => e.ask == .departure r.unit.tag && !e.isPlacing
      bus := if t.control.station = .joined then t.bus.askSummaryForced else t.bus } := by
  have hintake : (removeRecord im r t).intake = t.intake := by simp
  have hbus : (removeRecord im r t).bus = t.bus := by simp
  have hcontrol : (removeRecord im r t).control = t.control := by simp
  rw [← hintake, ← hbus, ← hcontrol, forceOut, summaryForced]
  by_cases hjoined : (removeRecord im r t).control.station = .joined
  · rw [if_pos hjoined]
    exact if_pos hjoined
  · rw [if_neg hjoined]
    exact if_neg hjoined

theorem answerWith_forceRecord (im : Image) (r : UnitRecord) (s : State) : answerWith s (forceRecord im r s) =
    match r.state, s.intents.ofTag r.unit.tag with
    | .pending, _ => reply .wrongState s s
    | .parked, _ => reply .done s (settle (releaseHeld (forceOut im r s)))
    | .leaving, none => reply .wrongState s s
    | .leaving, some it =>
      if it.state = .unannounced then reply .done s (freed im r.lane (forceOut im r (cancelSteps im it s)))
      else reply .done s (closeDeparted im r it s) := by
  unfold forceRecord
  cases r.state with
  | pending | parked => rfl
  | leaving =>
    cases s.intents.ofTag r.unit.tag with
    | none => rfl
    | some it =>
      dsimp only
      by_cases hstate : it.state = .unannounced
      · rw [if_pos hstate, if_neg (fun h => (Intent.isAnnounced_iff it).mp h hstate)]
        rfl
      · rw [if_neg hstate, if_pos ((Intent.isAnnounced_iff it).mpr hstate)]
        rfl

theorem answerWith_forced (tag : Tag) (s : State) : answerWith s (forced tag s) =
    match s.image with
    | none => reply .unavailable s s
    | some im =>
      if s.control.station = .loading ∨ s.control.station = .faulted then reply .unavailable s s
      else
        match s.units.find tag with
        | none => reply .unknownTag s s
        | some r => answerWith s (forceRecord im r s) := by
  unfold forced
  cases s.image with
  | none => rfl
  | some im =>
    dsimp only
    rw [answerWith_ite]
    refine if_congr (serving_eq_false_iff _) rfl ?_
    cases s.units.find tag <;> rfl

/-- Settles O33, by the state of the record. -/
theorem forcedDepartureOutcome : Obligations.ForcedDepartureOutcome := by
  intro tag s hr out
  have hout (im : Image) (r : UnitRecord) {t : State} (h : t.control = s.control) : out im r t = forceOut im r t := by
    rw [forceOut_eq, h]
    simp only [out, removeRecord_frame]
  rw [show exec (.forcedDeparture tag) s = _ from (forced_portFree tag).serveCode_received hr, answerWith_forced]
  simp only [answerWith_forceRecord, closeDeparted, freeIntent, IntentTable.free, removeRecord_frame, hout _ _ rfl,
    hout _ _ (cancelSteps_frame _ _ s).2.1] <;> rfl

/-! ### The cancellation of an intent -/

theorem Notice.isIntentOf_iff (n : Notice) (id : IntentId) : n.isIntentOf id = true ↔ ∃ e, n = .intent e ∧ e.id = id := by
  cases n <;> simp [Notice.isIntentOf]

theorem cancelSteps_plans (im : Image) (it : Intent) (s : State) :
    (cancelSteps im it s).plans = (cancelRecord im it { s with bus := s.bus.dropIntent it.id }).plans := rfl

/-- R91 step 2, for a PLACE intent's record. -/
theorem cancelRecord_place {im : Image} {it : Intent} {s : State} {r : UnitRecord} (hdir : it.dir = .place)
    (hfind : s.units.find it.tag = some r) : cancelRecord im it s = removeRecord im r s := by
  rw [cancelRecord, hdir, hfind]

theorem cancelRecord_place_none {im : Image} {it : Intent} {s : State} (hdir : it.dir = .place)
    (hfind : s.units.find it.tag = none) : cancelRecord im it s = s := by
  rw [cancelRecord, hdir, hfind]

theorem cancelRecord_remove {im : Image} {it : Intent} {s : State} (hdir : it.dir = .remove) :
    cancelRecord im it s = { s with units := s.units.putBack it.tag } := by
  rw [cancelRecord, hdir]

/-- R91 step 4: the entry that is PLACING under the id, whatever its intent's direction. -/
theorem putBack_eq (s : State) (it : Intent) (e : Entry) : e.putBack (unitGivenBack s it) =
    { e with
      state := .waiting
      ask := match e.ask, it.dir, s.units.find it.tag with
        | .placedArrival _, .place, some r => .arrival r.unit
        | ask, _, _ => ask } := by
  unfold Entry.putBack unitGivenBack
  cases e.ask <;> cases it.dir <;> cases s.units.find it.tag <;> rfl

/-- R153: what the comparison with the threshold leaves, case by case. -/
theorem compareNearFull_eq (im : Image) (lane : Nat) (s : State) : compareNearFull im lane s =
    { s with
      plans := { s.plans with lanes :=
        if (s.plans.lane lane).reported = nearlyFull im s lane then s.plans.lanes
        else s.plans.lanes.modify lane fun ls => { ls with reported := nearlyFull im s lane } }
      reports := if (s.plans.lane lane).reported = false ∧ nearlyFull im s lane = true then
          admitted (.laneNearFull lane (freeLength im s.units.records lane)) s.reports
        else s.reports } := by
  have hmodify : (s.plans.setLane lane { s.plans.lane lane with reported := nearlyFull im s lane }) =
      { s.plans with lanes := s.plans.lanes.modify lane fun ls => { ls with reported := nearlyFull im s lane } } := by
    rw [PlanStore.setLane, PlanStore.lane,
      set_getD s.plans.lanes lane _ fun ls => { ls with reported := nearlyFull im s lane }]
  unfold compareNearFull
  dsimp only
  rw [hmodify]
  cases hreported : (s.plans.lane lane).reported <;> cases nearlyFull im s lane <;> rfl

/-- R18: a PENDING record leaves without a change of the deck sums. -/
theorem UnitStore.remove_sums_of_pending {u : UnitStore} {tag : Tag}
    (h : ∀ r ∈ u.records, r.unit.tag = tag → r.state = .pending) : (u.remove tag).sums = u.sums := by
  unfold UnitStore.remove
  cases hfind : u.find tag with
  | none => rfl
  | some r =>
    have hstate := h r (UnitStore.mem_of_find hfind) (UnitStore.tag_of_find hfind)
    simp [UnitRecord.counts, hstate]

theorem cancelSteps_of_place {im : Image} {it : Intent} {s : State} {r : UnitRecord} (hdir : it.dir = .place)
    (hfind : s.units.find it.tag = some r) :
    cancelRecord im it { s with bus := s.bus.dropIntent it.id } =
      compareNearFull im r.lane { s with bus := s.bus.dropIntent it.id, units := (cancelSteps im it s).units } := by
  rw [cancelRecord_place (s := { s with bus := s.bus.dropIntent it.id }) hdir hfind, removeRecord, cancelSteps_units, hdir,
    ← UnitStore.tag_of_find hfind]

theorem cancelSteps_others (im : Image) (it : Intent) (s : State) : let t := cancelSteps im it s
    t = { s with
      intents := t.intents, bus := t.bus, units := t.units, intake := t.intake, plans := t.plans, reports := t.reports } := by
  intro t
  obtain ⟨hport, hcontrol, himage, hview, hpeers, hfresh, hpending⟩ := cancelSteps_frame im it s
  rw [← hport, ← hcontrol, ← himage, ← hview, ← hpeers, ← hfresh, ← hpending]

theorem cancelIntent_eq (im : Image) (it : Intent) (s : State) : cancelIntent im it s =
    refuseMarked (freed im (match s.units.find it.tag with
      | none => 0
      | some r => r.lane) (cancelSteps im it s)) := by
  rw [cancelIntent, laneOfTag]
  cases s.units.find it.tag <;> rfl

/-- Settles O34, block by block. -/
theorem cancellationSteps : Obligations.CancellationSteps := by
  refine ⟨Notice.isIntentOf_iff, fun s im it => ?_⟩
  intro t
  refine ⟨?_, cancelSteps_intents im it s, ?_, ?_, fun hdir => ?_, fun hdir hpending => ?_, fun hdir r hfind => ?_,
    fun hdir hfind => ?_, fun hdir => ?_, ?_, ?_⟩
  · exact cancelSteps_others im it s
  · intro others
    rw [show t.bus = _ from cancelSteps_bus im it s, Bus.dropIntent_eq]
  · rw [show t.units = _ from cancelSteps_units im it s]
    cases it.dir <;> simp
  · rw [show t.units = _ from cancelSteps_units im it s, hdir]
    exact UnitStore.remove_records _ _
  · rw [show t.units = _ from cancelSteps_units im it s, hdir]
    exact UnitStore.remove_sums_of_pending hpending
  · rw [show t.plans = _ from cancelSteps_plans im it s, show t.reports = _ from cancelSteps_reports im it s,
      cancelSteps_of_place hdir hfind, compareNearFull_eq]
    exact ⟨rfl, rfl⟩
  · rw [show t.plans = _ from cancelSteps_plans im it s, show t.reports = _ from cancelSteps_reports im it s,
      cancelRecord_place_none (s := { s with bus := s.bus.dropIntent it.id }) hdir hfind]
    exact ⟨rfl, rfl⟩
  · rw [show t.plans = _ from cancelSteps_plans im it s, show t.reports = _ from cancelSteps_reports im it s,
      show t.units = _ from cancelSteps_units im it s, cancelRecord_remove hdir, hdir]
    simp [UnitStore.putBack]
  · rw [show t.intake = _ from cancelSteps_intake im it s, updateFirst_eq_modify,
      show Entry.putBack (unitGivenBack s it) = _ from funext (putBack_eq s it)]
    rfl
  · intro u
    rw [cancelIntent_eq, refuseMarked_eq]
    rfl

end Sys2Proof.Machine
end

section
/-! PROOFS. The bus controller: the SUMMARY that stands for closures (R117), the attempts and the line (R106, R110 to R116, R119). -/

namespace Sys2Proof.Machine

open Sys2Proof.Safety

/-! ### A queued SUMMARY -/

theorem Notice.isClosure_iff (n : Notice) : n.isClosure = true ↔ ∃ id, n = .settle id ∨ n = .retract id := by
  cases n <;> simp [Notice.isClosure]

theorem placeSummary_eq (q : List Notice) : placeSummary q =
    if ∃ n ∈ q, n.isClosure = true then
      (q.takeWhile fun n => !n.isClosure) ++ .summary :: ((q.dropWhile fun n => !n.isClosure).filter fun n => !n.isClosure)
    else q ++ [.summary] := by
  rw [placeSummary]
  exact if_congr List.any_eq_true rfl rfl

theorem placeSummary_cons_closure {front : Notice} (h : front.isClosure = true) (rest : List Notice) :
    placeSummary (front :: rest) = .summary :: rest.filter fun n => !n.isClosure := by
  simp [placeSummary, h]

theorem placeSummary_cons_other {front : Notice} (h : front.isClosure = false) (rest : List Notice) :
    placeSummary (front :: rest) = front :: placeSummary rest := by
  by_cases hany : rest.any Notice.isClosure = true <;> simp [placeSummary, h, hany]

theorem Bus.queueSummary_eq (b : Bus) : b.queueSummary =
    match b.queue with
    | [] => { b with queue := [.summary], attempts := 0, frontSeq := none, refresh := false }
    | front :: rest =>
      if b.sending.isSome then { b with queue := front :: placeSummary rest, refresh := false }
      else if front.isClosure then
        { b with queue := .summary :: rest.filter (fun n => !n.isClosure), attempts := 0, frontSeq := none, refresh := false }
      else { b with queue := front :: placeSummary rest, refresh := false } := by
  unfold Bus.queueSummary
  cases hqueue : b.queue with
  | nil => cases b.sending <;> rfl
  | cons front rest =>
    cases b.sending with
    | some bytes => rfl
    | none =>
      cases hclosure : front.isClosure with
      | true => simp [hclosure, placeSummary_cons_closure, Bus.newFront]
      | false => simp [hclosure, placeSummary_cons_other]

theorem Bus.markRefresh_eq (b : Bus) : b.markRefresh =
    { b with refresh := b.refresh || (b.sending.isSome && b.queue.head? == some .summary) } := by
  rw [Bus.markRefresh, Bus.summarySending]
  cases b.sending.isSome && b.queue.head? == some .summary <;> simp

theorem Bus.join_eq (b : Bus) (n : Notice) : b.join n = match b.queue with
    | [] => { b with queue := [n], attempts := 0, frontSeq := none }
    | front :: rest => { b with queue := front :: (rest ++ [n]) } := by
  rw [Bus.join]
  cases b.queue <;> rfl

/-- Settles O40. -/
theorem summaryStandsForClosures : Obligations.SummaryStandsForClosures := by
  refine ⟨Notice.isClosure_iff, ?_⟩
  intro b absorbed joined standsFor queued
  have hqueued : b.queueSummary = queued := by
    rw [Bus.queueSummary_eq]
    simp only [placeSummary_eq]
    rfl
  refine ⟨fun hsummary => ?_, fun hnone => ?_⟩
  · have hhas := b.hasSummary_iff.mpr hsummary
    exact ⟨if_pos hhas, (if_pos hhas).trans b.markRefresh_eq, fun n => (if_pos hhas).trans b.markRefresh_eq⟩
  · have hhas := mt b.hasSummary_iff.mp hnone
    exact ⟨(if_neg hhas).trans hqueued, (if_neg hhas).trans hqueued, fun n => (if_neg hhas).trans (b.join_eq n)⟩

/-! ### The lifetime and the heartbeat -/

theorem IntentTable.find_eq (t : IntentTable) (id : IntentId) : t.find id = t.open_.find? fun it => it.id == id := rfl

theorem exec_lifetimeExpiry_of_find {s : State} {im : Image} {id : IntentId} {it : Intent} (him : s.image = some im)
    (hfind : s.intents.find id = some it) : exec (.lifetimeExpiry id) s =
      event s (it.livedOut im) fun s => post (.overdue it.tag id) { s with intents := s.intents.setState id .overdue } := by
  show execLifetimeExpiry id s = _
  rw [execLifetimeExpiry, him, hfind]

theorem exec_lifetimeExpiry_of_none {s : State} {id : IntentId} (h : s.image = none ∨ s.intents.find id = none) :
    exec (.lifetimeExpiry id) s = .next s := by
  show execLifetimeExpiry id s = _
  unfold execLifetimeExpiry
  rcases h with h | h <;> rw [h]
  cases s.image <;> rfl

theorem Intent.livedOut_iff (im : Image) (it : Intent) :
    it.livedOut im = true ↔ ∃ ms, it.state = .announced ms ∧ ¬ ms < 1000 * im.lifetime := by
  rw [Intent.livedOut, Nat.mul_comm]
  cases it.state with
  | announced ms =>
    refine decide_eq_true_iff.trans ⟨fun h => ⟨ms, rfl, Nat.not_lt.mpr h⟩, fun ⟨_, heq, h⟩ => ?_⟩
    cases heq
    exact Nat.not_lt.mp h
  | unannounced | overdue => simp

theorem exec_heartbeatExpiry_of_image {s : State} {im : Image} (him : s.image = some im) : exec .heartbeatExpiry s =
    event s (reachedLimit im.heartbeat s.bus.heartbeat) fun s => { s with bus := { s.bus.askSummary with heartbeat := some 0 } } := by
  show execHeartbeatExpiry s = _
  rw [execHeartbeatExpiry, him]

theorem exec_heartbeatExpiry_of_none {s : State} (him : s.image = none) : exec .heartbeatExpiry s = .next s := by
  show execHeartbeatExpiry s = _
  rw [execHeartbeatExpiry, him]

theorem event_of_false {s : State} {condition : Bool} {effect : State → State} (h : ¬ condition = true) :
    event s condition effect = .next s := by
  rw [event, if_neg h]

/-- Settles O35. -/
theorem lifetimeAndHeartbeat : Obligations.LifetimeAndHeartbeat := by
  refine ⟨fun id s h => ?_, fun s h => ?_, fun id s im it ms him hfind hstate => ?_, fun s im ms him htimer => ?_⟩
  · rcases h with h | h | ⟨it, hfind, hstate⟩
    · exact exec_lifetimeExpiry_of_none (.inl h)
    · exact exec_lifetimeExpiry_of_none (.inr h)
    · cases him : s.image with
      | none => exact exec_lifetimeExpiry_of_none (.inl him)
      | some im =>
        rw [exec_lifetimeExpiry_of_find him hfind]
        exact event_of_false fun hlived => (Intent.livedOut_iff im it).mp hlived |>.elim fun ms h => hstate ms h.1
  · rcases h with h | h
    · exact exec_heartbeatExpiry_of_none h
    · cases him : s.image with
      | none => exact exec_heartbeatExpiry_of_none him
      | some im =>
        rw [exec_heartbeatExpiry_of_image him, h]
        exact event_of_false Bool.false_ne_true
  · rw [exec_lifetimeExpiry_of_find him hfind, event_of_iff (P := ¬ ms < 1000 * im.lifetime), ite_not]
    · rw [show post _ { s with intents := s.intents.setState id .overdue } = _ from rfl, post, admitted_status rfl]
      rfl
    · rw [Intent.livedOut_iff, hstate]
      simp
  · rw [exec_heartbeatExpiry_of_image him, htimer, event_of_iff (P := ¬ ms < im.heartbeat), ite_not]
    exact reachedLimit_some _ _

/-! ### The line -/

theorem frameLevels_getElem? (bytes : List Byte) (i : Nat) {k : Nat} (hk : k < 10) (h : i < bytes.length) :
    (frameLevels bytes)[10 * i + k]? = (byteLevels bytes[i])[k]? := by
  induction bytes generalizing i with
  | nil => cases h
  | cons b rest ih =>
    have hcons : frameLevels (b :: rest) = byteLevels b ++ frameLevels rest := rfl
    cases i with
    | zero =>
      rw [hcons, Nat.mul_zero, Nat.zero_add, List.getElem?_append_left (by simpa using hk)]
      rfl
    | succ i =>
      rw [hcons, List.getElem?_append_right (by rw [byteLevels_length]; omega), byteLevels_length,
        show 10 * (i + 1) + k - 10 = 10 * i + k by omega, ih i (Nat.lt_of_succ_lt_succ h)]
      rfl

theorem byteLevels_getElem?_bit (b : Byte) {k : Nat} (hk : k < 8) :
    (byteLevels b)[1 + k]? = some (if b.getLsbD (7 - k) then .recessive else .dominant) := by
  rw [byteLevels, Nat.add_comm, List.getElem?_cons_succ,
    List.getElem?_append_left (by simpa [msbFirst] using hk), msbFirst, List.map_map, List.getElem?_map, List.getElem?_range hk]
  rfl

section
variable {s : State} {bytes : List Byte} (hsending : s.bus.sending = some bytes)
include hsending

theorem drives_of_sending (bit : Nat) : drives s bit = (frameLevels bytes).getD bit .recessive := by
  rw [drives, hsending]

theorem drives_after {bit : Nat} (h : 10 * bytes.length ≤ bit) : drives s bit = .recessive := by
  rw [drives_of_sending hsending, List.getD_eq_default]
  rwa [frameLevels_length]

theorem drives_eq {i k : Nat} {level : Level} (hi : i < bytes.length) (hk : k < 10)
    (hlevel : (byteLevels bytes[i])[k]? = some level) : drives s (10 * i + k) = level := by
  rw [drives_of_sending hsending, List.getD_eq_getElem?_getD, frameLevels_getElem? bytes i hk hi, hlevel]
  rfl

end

theorem le_length_takeWhile_iff (n : Nat) (l : List Level) :
    n ≤ (l.takeWhile fun x => x == .recessive).length ↔ ∃ rest, l = List.replicate n .recessive ++ rest := by
  induction n generalizing l with
  | zero => simp
  | succ n ih =>
    cases l with
    | nil => simp [List.replicate_succ]
    | cons a l =>
      cases a with
      | dominant => simp [List.replicate_succ]
      | recessive =>
        rw [List.takeWhile_cons_of_pos (by rfl), List.length_cons, Nat.succ_le_succ_iff, ih]
        simp [List.replicate_succ]

theorem lineIsIdle_iff (line : List Level) :
    lineIsIdle line = true ↔ ∃ before, line = before ++ List.replicate 16 .recessive := by
  rw [lineIsIdle, decide_eq_true_iff, idleBitTimes, Config.idleGap, le_length_takeWhile_iff]
  constructor
  · rintro ⟨rest, h⟩
    refine ⟨rest.reverse, ?_⟩
    rw [← List.reverse_reverse line, h, List.reverse_append, List.reverse_replicate]
  · rintro ⟨before, rfl⟩
    exact ⟨before.reverse, by rw [List.reverse_append, List.reverse_replicate]⟩

theorem firstDifference_alone (sent : List Level) :
    firstDifference sent (together sent (List.replicate sent.length .recessive)) = none := by
  induction sent with
  | nil => rfl
  | cons a sent ih =>
    unfold firstDifference together at ih ⊢
    simp [List.replicate_succ, List.findIdx?_cons, ih]

theorem hearing_iff (s : State) : hearing s = true ↔ s.control.held = false ∧ (s.bus.line = .idle ∨ s.bus.line = .running) := by
  simp [hearing]

theorem exec_invalidFrame {s : State} {bytes : List RxByte} (hheld : s.control.held = false) (hframe : frameOfBytes bytes = none) :
    exec (.invalidFrame bytes) s = .next
      (match s.bus.line with
      | .unsynced => s
      | .idle => { s with bus := { s.bus with line := .judged } }
      | .running => { s with bus := { s.bus with line := .judged } }
      | .judged => s) := by
  show execInvalidFrame bytes s = _
  rw [execInvalidFrame, event, hframe]
  cases hline : s.bus.line <;> simp [hearing, hheld, hline, lineJudged]

/-- Settles O38. -/
theorem lineEvents : Obligations.LineEvents := by
  refine ⟨fun s => ⟨fun h => ?_, fun h => ?_, fun h => ?_, fun bytes hheld hframe => exec_invalidFrame hheld hframe,
    fun hheld h => ?_, fun h bit => ?_, fun bytes h => ⟨fun bit => drives_after h, fun i hi => ⟨?_, ?_, fun k hk => ?_⟩⟩⟩,
    fun _ _ => rfl, fun a b => ?_, lineIsIdle_iff, fun same a b => ⟨(arbitration same b a).1, firstDifference_alone⟩⟩
  · show execCollision s = _
    rw [execCollision, event, if_pos h, collide, Bus.summarySending, h]
    simp
  · show execCollision s = _
    exact event_of_false (by simp [h])
  · show execLineIdle s = _
    refine event_of_false fun hidle => ?_
    simp only [Bool.and_eq_true, Bool.not_eq_true', Option.isNone_iff_eq_none] at hidle
    obtain ⟨hheld, hsending⟩ := hidle
    rcases h with h | h
    · simp [hheld] at h
    · simp [hsending] at h
  · show execLineIdle s = _
    rw [execLineIdle, event, if_pos (by simp [hheld, h])]
  · rw [drives, h]
  · exact drives_eq h hi (by omega : 0 < 10) rfl
  · exact drives_eq h hi (by omega : 9 < 10) rfl
  · rw [Nat.add_assoc]
    exact drives_eq h hi (by omega) (byteLevels_getElem?_bit _ hk)
  · cases a <;> cases b <;> decide

end Sys2Proof.Machine
end

section
/-! PROOFS. The start and the completion of an attempt (R111 to R116), and the list of a SUMMARY (R114). -/

namespace Sys2Proof.Machine

open Sys2Proof.Safety

/-! ### The start of an attempt -/

theorem mayAttempt_iff (s : State) (im : Image) (idleBits : Nat) : mayAttempt s im idleBits = true ↔
    s.control.held = false ∧ s.control.station = .joined ∧ s.bus.sending = none ∧ s.bus.line = .idle ∧
      attemptWait im.stationNo s.bus.attempts ≤ idleBits := by
  simp [mayAttempt, and_assoc]

theorem exec_attemptStart_of_front {s : State} {im : Image} {n : Notice} {rest : List Notice} (him : s.image = some im)
    (hqueue : s.bus.queue = n :: rest) (idleBits : Nat) :
    exec (.attemptStart idleBits) s = event s (mayAttempt s im idleBits) (startAttempt im n) := by
  show execAttemptStart idleBits s = _
  rw [execAttemptStart, him, hqueue]

theorem exec_attemptStart_of_none {s : State} (h : s.image = none ∨ s.bus.queue = []) (idleBits : Nat) :
    exec (.attemptStart idleBits) s = .next s := by
  show execAttemptStart idleBits s = _
  unfold execAttemptStart
  rcases h with h | h <;> rw [h]
  cases s.image <;> rfl

/-- R111: no attempt is made but by a JOINED station that is not making one. -/
theorem exec_attemptStart_unchanged {s : State} (idleBits : Nat)
    (h : s.control.held = true ∨ s.control.station ≠ .joined ∨ s.image = none ∨ s.bus.queue = [] ∨ s.bus.sending ≠ none) :
    exec (.attemptStart idleBits) s = .next s := by
  cases him : s.image with
  | none => exact exec_attemptStart_of_none (.inl him) idleBits
  | some im =>
    cases hqueue : s.bus.queue with
    | nil => exact exec_attemptStart_of_none (.inr hqueue) idleBits
    | cons n rest =>
      rw [exec_attemptStart_of_front him hqueue]
      refine event_of_false fun hmay => ?_
      obtain ⟨hheld, hjoined, hsending, -, -⟩ := (mayAttempt_iff s im idleBits).mp hmay
      rcases h with h | h | h | h | h
      · simp [hheld] at h
      · exact h hjoined
      · simp [him] at h
      · simp [hqueue] at h
      · exact h hsending

theorem dropIntent_of_front {b : Bus} {e : IntentEntry} {rest : List Notice} (hqueue : b.queue = .intent e :: rest)
    (hsending : b.sending = none) : b.dropIntent e.id =
      { b with queue := rest.filter (fun x => !x.isIntentOf e.id), attempts := 0, frontSeq := none } := by
  simp [Bus.dropIntent, hqueue, Notice.isIntentOf, Bus.newFront, hsending]

/-! ### The list of a SUMMARY -/

/-- The entry of an announced intent under an id (R114). -/
def IntentTable.announcedEntry (t : IntentTable) (id : IntentId) : Option IntentEntry :=
  (t.open_.find? fun it => it.id == id && it.isAnnounced).map fun it => ⟨it.id, it.dir, it.delta⟩

theorem summaryList_eq (t : IntentTable) : summaryList t = (List.finRange 16).filterMap t.announcedEntry := rfl

theorem IntentTable.id_of_announcedEntry {t : IntentTable} {id : IntentId} {e : IntentEntry} (h : t.announcedEntry id = some e) :
    e.id = id := by
  obtain ⟨it, hfind, rfl⟩ := Option.map_eq_some_iff.mp h
  have hit := List.find?_some hfind
  simp only [Bool.and_eq_true, beq_iff_eq] at hit
  exact hit.1

theorem summaryList_sorted (t : IntentTable) : (summaryList t).Pairwise fun a b => a.id < b.id := by
  rw [summaryList_eq]
  refine (List.pairwise_lt_finRange 16).filterMap _ fun i j hij a ha b hb => ?_
  rw [IntentTable.id_of_announcedEntry ha, IntentTable.id_of_announcedEntry hb]
  exact hij

theorem exists_of_mem_summaryList {t : IntentTable} {e : IntentEntry} (h : e ∈ summaryList t) :
    ∃ it ∈ t.open_, it.state ≠ .unannounced ∧ e = ⟨it.id, it.dir, it.delta⟩ := by
  rw [summaryList_eq, List.mem_filterMap] at h
  obtain ⟨id, -, h⟩ := h
  obtain ⟨it, hfind, rfl⟩ := Option.map_eq_some_iff.mp h
  have hit := List.find?_some hfind
  simp only [Bool.and_eq_true] at hit
  exact ⟨it, List.mem_of_find?_eq_some hfind, (Intent.isAnnounced_iff it).mp hit.2, rfl⟩

/-- With distinct ids the list has exactly the announced intents. -/
theorem mem_summaryList_iff {t : IntentTable} (hnodup : (t.open_.map Intent.id).Nodup) (e : IntentEntry) :
    e ∈ summaryList t ↔ ∃ it ∈ t.open_, it.state ≠ .unannounced ∧ e = ⟨it.id, it.dir, it.delta⟩ := by
  refine ⟨exists_of_mem_summaryList, ?_⟩
  rintro ⟨it, hmem, hstate, rfl⟩
  rw [summaryList_eq, List.mem_filterMap]
  have hannounced := (Intent.isAnnounced_iff it).mpr hstate
  refine ⟨it.id, List.mem_finRange _, Option.map_eq_some_iff.mpr ⟨it, ?_, rfl⟩⟩
  cases hfind : t.open_.find? fun x => x.id == it.id && x.isAnnounced with
  | none => exact absurd (List.find?_eq_none.mp hfind it hmem) (by simp [hannounced])
  | some x =>
    have hx := List.find?_some hfind
    simp only [Bool.and_eq_true, beq_iff_eq] at hx
    rw [List.inj_on_of_nodup_map hnodup (List.mem_of_find?_eq_some hfind) hmem hx.1]

/-- Settles O37. -/
theorem attemptStartOutcome : Obligations.AttemptStartOutcome := by
  refine ⟨fun idleBits s h => exec_attemptStart_unchanged idleBits h, fun idleBits s im n rest him hqueue hheld hjoined hsending => ?_,
    fun t => ⟨summaryList_sorted t, fun hnodup => mem_summaryList_iff hnodup⟩⟩
  intro wait seq begun
  rw [exec_attemptStart_of_front him hqueue, event_of_iff (P := ¬ (s.bus.line ≠ .idle ∨ idleBits < wait)), ite_not]
  · congr 1
    refine if_congr Iff.rfl rfl ?_
    cases n with
    | summary | settle | retract => rfl
    | intent e =>
      unfold startAttempt
      dsimp only
      rw [dropIntent_of_front hqueue hsending]
      cases s.intents.find e.id <;> rfl
  · rw [mayAttempt_iff, not_or, not_not, Nat.not_lt]
    exact ⟨fun ⟨_, _, _, hline, hwait⟩ => ⟨hline, hwait⟩, fun ⟨hline, hwait⟩ => ⟨hheld, hjoined, hsending, hline, hwait⟩⟩

/-! ### The completion of an attempt -/

theorem exec_attemptComplete_of_front {s : State} {im : Image} {n : Notice} {rest : List Notice} (him : s.image = some im)
    (hqueue : s.bus.queue = n :: rest) : exec .attemptComplete s = event s s.bus.sending.isSome (complete im n rest) := by
  show execAttemptComplete s = _
  rw [execAttemptComplete, him, hqueue]

theorem exec_attemptComplete_unchanged {s : State} (h : s.image = none ∨ s.bus.queue = [] ∨ s.bus.sending = none) :
    exec .attemptComplete s = .next s := by
  cases him : s.image with
  | none =>
    show execAttemptComplete s = _
    rw [execAttemptComplete, him]
  | some im =>
    cases hqueue : s.bus.queue with
    | nil =>
      show execAttemptComplete s = _
      rw [execAttemptComplete, him, hqueue]
    | cons n rest =>
      rw [exec_attemptComplete_of_front him hqueue]
      rcases h with h | h | h
      · simp [him] at h
      · simp [hqueue] at h
      · exact event_of_false (by simp [h])

/-- A fresh SUMMARY joins at the back, a new front where the queue was emptied (R110, R117). -/
theorem completed_join (b : Bus) (rest : List Notice) : (b.completed rest).join .summary =
    { b.completed rest with queue := rest ++ [.summary] } := by
  unfold Bus.join
  cases rest <;> rfl

theorem announcementReport_isDecision (im : Image) (it : Intent) (s : State) : (announcementReport im it s).isDecision = true := by
  unfold announcementReport
  cases it.dir <;> rfl

/-- The report of an announcement reads the records and the expected view alone. -/
theorem announcementReport_congr (im : Image) (it : Intent) {s t : State} (hunits : t.units = s.units) (hpeers : t.peers = s.peers)
    (hdeltas : t.intents.open_.map Intent.delta = s.intents.open_.map Intent.delta) :
    announcementReport im it t = announcementReport im it s := by
  have hexpected : expectedView t im Quad.zero = expectedView s im Quad.zero := by
    rw [expectedView, expectedView, hunits, hpeers, show t.intents.open_.map (fun it => it.delta) = _ from hdeltas]
  simp only [announcementReport, laneOfTag, listFigure, hunits, hexpected]

/-- R92, R93: an announcement, its list figure that of the state as it stood. -/
theorem announce_eq (im : Image) (it : Intent) (s : State) (b : Bus) : announce im it { s with bus := b } =
    { s with
      bus := b
      intents := s.intents.setState it.id (.announced 0)
      intake := s.intake.eraseP fun x => x.state == .placing it.id
      reports := s.reports ++ [announcementReport im it s] } := by
  rw [← announcementReport_congr im it (s := s) (t := { s with
    bus := b
    intents := s.intents.setState it.id (.announced 0)
    intake := s.intake.eraseP (Entry.isPlacingFor it.id) }) rfl rfl (setState_deltas s.intents it.id (.announced 0)),
    ← admitted_decision (announcementReport_isDecision im it _)]
  rfl

/-- Settles O39. -/
theorem attemptCompleteOutcome : Obligations.AttemptCompleteOutcome := by
  refine ⟨fun s h => exec_attemptComplete_unchanged h, fun _ _ => rfl, fun s im n rest him hqueue hsending => ?_⟩
  intro b
  rw [exec_attemptComplete_of_front him hqueue, event, if_pos hsending]
  congr 1
  cases n with
  | settle | retract => rfl
  | summary =>
    unfold complete
    dsimp only
    rw [completed_join]
    by_cases hrefresh : s.bus.refresh = true
    · rw [if_pos hrefresh, if_pos hrefresh]
      rfl
    · rw [if_neg hrefresh, if_neg hrefresh]
      rfl
  | intent e =>
    unfold complete
    dsimp only
    cases s.intents.find e.id with
    | none => rfl
    | some it =>
      dsimp only
      rw [announce_eq]
      refine if_congr Iff.rfl ?_ rfl
      unfold announcementReport
      cases it.dir <;> rfl

end Sys2Proof.Machine
end

section
/-! PROOFS. Frames and requests as bytes: their layouts (sections 11.1 and 11.2), the checks, the round trips (R106 to R108, R181). -/

namespace Sys2Proof.Machine

open Sys2Proof.Safety

/-! ### The layout of a frame -/

theorem sumsBytes_eq (q : Quad) : sumsBytes q = beInt 4 q.m ++ beInt 4 q.t ++ beInt 4 q.l ++ beInt 4 q.v := by
  simp only [sumsBytes, List.append_assoc]

theorem entryBytes_eq (e : IntentEntry) : entryBytes e =
    [match e.dir with
      | .place => numByte e.id.val
      | .remove => numByte (e.id.val + 16)] ++ beInt 2 e.delta.m ++ beInt 4 e.delta.t ++ beInt 4 e.delta.l ++ beInt 4 e.delta.v := by
  rw [entryBytes]
  cases e.dir <;> simp only [idDirByte, List.append_assoc, List.cons_append, List.nil_append]

theorem FrameBody.bytes_eq (b : FrameBody) : b.bytes = match b with
    | .intent e => entryBytes e
    | .settle id q => [numByte id.val] ++ sumsBytes q
    | .retract id => [numByte id.val]
    | .summary q parked es => sumsBytes q ++ beBytes 2 parked ++ [numByte es.length] ++ (es.map entryBytes).flatten := by
  cases b with
  | intent | settle | retract => rfl
  | summary q parked es =>
    simp only [FrameBody.bytes, List.flatMap_def, List.append_assoc, List.cons_append, List.nil_append]

/-- R107: the check, bit by bit. -/
theorem frameCheck_eq (bytes : List Byte) : frameCheck bytes = (bytes.flatMap msbFirst).foldl checkBit 0xFFFF := by
  rw [List.foldl_flatMap, frameCheck]
  exact congrArg (fun f => List.foldl f _ bytes) (funext fun reg => funext fun b => checkByte_eq_foldl reg b)

theorem byteLevels_eq (b : Byte) : byteLevels b =
    [Level.dominant] ++ ((List.range 8).map fun k => if b.getLsbD (7 - k) then Level.recessive else .dominant) ++ [.recessive] := by
  rw [byteLevels, msbFirst, List.map_map]
  rfl

/-! ### The encoding checks -/

theorem sumsValid_iff (q : Quad) : sumsValid q = true ↔ 0 ≤ q.m ∧ q.m ≤ 307200 ∧ -122880000 ≤ q.t ∧ q.t ≤ 122880000 ∧
    -1536000000 ≤ q.l ∧ q.l ≤ 1536000000 ∧ 0 ≤ q.v ∧ q.v ≤ 261120000 := by
  simp only [sumsValid, Bool.and_eq_true, decide_eq_true_eq, and_assoc]

theorem entryValid_iff (e : IntentEntry) : entryValid e = true ↔
    -240000 ≤ e.delta.t ∧ e.delta.t ≤ 240000 ∧ -3000000 ≤ e.delta.l ∧ e.delta.l ≤ 3000000 ∧
      match e.dir with
      | .place => 5 ≤ e.delta.m ∧ e.delta.m ≤ 600 ∧ 0 ≤ e.delta.v ∧ e.delta.v ≤ 510000
      | .remove => -600 ≤ e.delta.m ∧ e.delta.m ≤ -5 ∧ -510000 ≤ e.delta.v ∧ e.delta.v ≤ 0 := by
  unfold entryValid
  cases e.dir <;> simp only [Bool.and_eq_true, decide_eq_true_eq, and_assoc]

theorem FrameBody.valid_iff (b : FrameBody) : b.valid = true ↔ match b with
    | .intent e => entryValid e = true
    | .settle _ q => sumsValid q = true
    | .retract _ => True
    | .summary q parked es => sumsValid q = true ∧ parked ≤ 512 ∧ es.length ≤ 4 ∧ es.Pairwise (fun a c => a.id < c.id) ∧
        ∀ e ∈ es, entryValid e = true := by
  cases b with
  | intent | settle => exact Iff.rfl
  | retract => exact ⟨fun _ => trivial, fun _ => rfl⟩
  | summary q parked es =>
    simp only [FrameBody.valid, Bool.and_eq_true, decide_eq_true_eq, and_assoc, idsAscending_iff, List.all_eq_true]
    exact Iff.rfl

theorem FrameBody.bytes_length_le {b : FrameBody} (h : b.valid = true) : b.bytes.length ≤ 79 := by
  cases b with
  | intent e => simp [FrameBody.bytes]
  | settle id q => simp [FrameBody.bytes]
  | retract id => simp [FrameBody.bytes]
  | summary q parked es =>
    obtain ⟨-, -, hlength, -, -⟩ := (FrameBody.valid_iff _).mp h
    simp only [FrameBody.bytes, List.length_append, List.length_cons, entriesBytes_length, sumsBytes_length, beBytes_length]
    omega

theorem FrameBody.code_le (b : FrameBody) : b.code ≤ 4 := by
  cases b <;> simp [FrameBody.code]

/-! ### What is read as a frame -/

theorem three_bytes (b : List Byte) (h : 3 ≤ b.length) : b = byteField b 0 :: byteField b 1 :: byteField b 2 :: b.drop 3 := by
  rw [byteField_cons_drop b 2 h, byteField_cons_drop b 1 (by omega), byteField_cons_drop b 0 (by omega), List.drop_zero]

/-- A frame read has the bytes that it is read from. -/
theorem Frame.bytes_of_checks {bytes : List Byte} {len : Nat} {body : FrameBody} (hlength : bytes.length = 5 + len)
    (hlen : byteField bytes 2 = numByte len) (hfirst : (byteField bytes 0).toNat % 16 < 8)
    (hcheck : field bytes (3 + len) 2 = (frameCheck (bytes.take (3 + len))).toNat)
    (hbody : bodyOfBytes ((byteField bytes 0).toNat / 16) ((bytes.drop 3).take len) = some body) :
    Frame.bytes ⟨⟨(byteField bytes 0).toNat % 8, Nat.mod_lt _ (by decide)⟩, byteField bytes 1, body⟩ = bytes := by
  obtain ⟨hcode, hbytes⟩ := bytes_of_bodyOfBytes _ _ _ hbody
  have hbodylength : body.bytes.length = len := by
    rw [hbytes, List.length_take, List.length_drop]
    omega
  have htake : bytes.take (3 + len) =
      byteField bytes 0 :: byteField bytes 1 :: byteField bytes 2 :: (bytes.drop 3).take len := by
    conv_lhs => rw [three_bytes bytes (by omega)]
    rw [Nat.add_comm, List.take_succ_cons, List.take_succ_cons, List.take_succ_cons]
  have hhead : Frame.headAndBody ⟨⟨(byteField bytes 0).toNat % 8, Nat.mod_lt _ (by decide)⟩, byteField bytes 1, body⟩ =
      bytes.take (3 + len) := by
    rw [htake, Frame.headAndBody, hbodylength, hcode, hbytes, hlen,
      show 16 * ((byteField bytes 0).toNat / 16) + (byteField bytes 0).toNat % 8 = (byteField bytes 0).toNat by omega, numByte_toNat]
  rw [Frame.bytes, hhead, ← hcheck, beBytes_field bytes (3 + len) 2 (by omega), ← List.take_add, List.take_of_length_le (by omega)]

theorem map_stop_of_all {rx : List RxByte} (h : rx.all RxByte.stop = true) :
    rx = (rx.map RxByte.value).map fun b => ⟨b, true⟩ := by
  rw [List.map_map]
  refine (List.map_id rx).symm.trans (List.map_congr_left fun x hx => ?_)
  have hstop := List.all_eq_true.mp h x hx
  obtain ⟨value, stop⟩ := x
  cases hstop
  rfl

/-- Nothing but a frame's bytes is read as a frame. -/
theorem bytes_of_frameOfBytes {rx : List RxByte} {f : Frame} (h : frameOfBytes rx = some f) :
    f.body.valid = true ∧ ∃ after, rx = f.bytes.map (fun b => ⟨b, true⟩) ++ after := by
  unfold frameOfBytes at h
  dsimp only at h
  set len := ((rx.map RxByte.value).getD 2 0).toNat with hlen
  split at h
  case isFalse => cases h
  case isTrue hchecks =>
    obtain ⟨hlength, hstop, hfirst, hcheck⟩ := hchecks
    split at h
    case h_2 => cases h
    case h_1 body hbody =>
      split at h
      case isFalse => cases h
      case isTrue hvalid =>
        cases h
        have hthird : byteField ((rx.take (5 + len)).map RxByte.value) 2 = numByte len := by
          rw [hlen, numByte_toNat, byteField, List.map_take, List.getD_eq_getElem?_getD, List.getElem?_take_of_lt (by omega),
            List.getD_eq_getElem?_getD]
        have hbytes := Frame.bytes_of_checks (by rw [List.length_map, hlength]) hthird hfirst hcheck hbody
        refine ⟨hvalid, rx.drop (5 + len), ?_⟩
        rw [hbytes, ← map_stop_of_all hstop, List.take_append_drop]

theorem Frame.headAndBody_length (f : Frame) : f.headAndBody.length = 3 + f.body.bytes.length := by
  rw [Frame.headAndBody, List.length_cons, List.length_cons, List.length_cons]
  omega

theorem Frame.bytes_length (f : Frame) : f.bytes.length = 5 + f.body.bytes.length := by
  rw [Frame.bytes, List.length_append, Frame.headAndBody_length, beBytes_length]
  omega

/-- What passes the checks of R108 and R181 is read, whatever follows. -/
theorem frameOfBytes_of_checks {rx : List RxByte} {bytes : List Byte} {len : Nat} {body : FrameBody}
    (hlen : ((rx.map RxByte.value).getD 2 0).toNat = len) (hjudged : rx.take (5 + len) = bytes.map fun b => ⟨b, true⟩)
    (hlength : bytes.length = 5 + len) (hfirst : (byteField bytes 0).toNat % 16 < 8)
    (hcheck : field bytes (3 + len) 2 = (frameCheck (bytes.take (3 + len))).toNat)
    (hbody : bodyOfBytes ((byteField bytes 0).toNat / 16) ((bytes.drop 3).take len) = some body) (hvalid : body.valid = true) :
    frameOfBytes rx = some ⟨⟨(byteField bytes 0).toNat % 8, Nat.mod_lt _ (by decide)⟩, byteField bytes 1, body⟩ := by
  have hstop : (rx.take (5 + len)).all RxByte.stop = true := by
    rw [hjudged]
    simp
  obtain rfl : (rx.take (5 + len)).map RxByte.value = bytes := by
    rw [hjudged, List.map_map]
    exact List.map_id _
  subst hlen
  unfold frameOfBytes
  dsimp only
  rw [if_pos ⟨(List.length_map _).symm.trans hlength, hstop, hfirst, hcheck⟩, hbody]
  exact if_pos hvalid

/-- A frame whose contents pass the checks is read, whatever follows its bytes. -/
theorem frameOfBytes_bytes {f : Frame} (h : f.body.valid = true) (after : List RxByte) :
    frameOfBytes (f.bytes.map (fun b => ⟨b, true⟩) ++ after) = some f := by
  have hbody := FrameBody.bytes_length_le h
  have hcode := FrameBody.code_le f.body
  have hstation := f.station.isLt
  have hlength := Frame.bytes_length f
  have hlen : (((f.bytes.map (fun b => (⟨b, true⟩ : RxByte)) ++ after).map RxByte.value).getD 2 0).toNat = f.body.bytes.length := by
    have hthird : ((f.bytes.map (fun b => (⟨b, true⟩ : RxByte)) ++ after).map RxByte.value).getD 2 0 =
      numByte f.body.bytes.length := rfl
    rw [hthird, numByte, BitVec.toNat_ofNat, Nat.mod_eq_of_lt (by omega)]
  have hfirst : (byteField f.bytes 0).toNat = 16 * f.body.code + f.station.val := by
    have hzero : byteField f.bytes 0 = numByte (16 * f.body.code + f.station.val) := rfl
    rw [hzero, numByte, BitVec.toNat_ofNat, Nat.mod_eq_of_lt (by omega)]
  have hhead : f.bytes.take (3 + f.body.bytes.length) = f.headAndBody := List.take_left' (Frame.headAndBody_length f)
  have hcheck : field f.bytes (3 + f.body.bytes.length) 2 = (frameCheck (f.bytes.take (3 + f.body.bytes.length))).toNat := by
    rw [hhead, Frame.bytes, field_drop _ _ _ _ (Frame.headAndBody_length f).le, Frame.headAndBody_length, Nat.sub_self, field,
      List.drop_zero, List.take_of_length_le (by simp), beNat_beBytes]
    exact Nat.mod_eq_of_lt (frameCheck f.headAndBody).isLt
  have hbodybytes : (f.bytes.drop 3).take f.body.bytes.length = f.body.bytes := List.take_left' rfl
  have hread := frameOfBytes_of_checks (body := f.body) hlen (List.take_left' (by rw [List.length_map, hlength])) hlength
    (by omega) hcheck (by rw [hbodybytes, hfirst, show (16 * f.body.code + f.station.val) / 16 = f.body.code by omega,
      bodyOfBytes_bytes f.body h]) h
  rw [hread, show (⟨(byteField f.bytes 0).toNat % 8, Nat.mod_lt _ (by decide)⟩ : StationNo) = f.station from
    Fin.ext (show (byteField f.bytes 0).toNat % 8 = _ by omega)]
  rfl

/-- Settles O41. -/
theorem frameRoundTrip : Obligations.FrameRoundTrip := by
  refine ⟨fun f => ?_, fun b => ?_, fun bytes => ?_, fun rx f h => bytes_of_frameOfBytes h,
    fun f after h => ⟨frameOfBytes_bytes h after, fun levels => ?_⟩⟩
  · intro one sums entry kind body checked check
    have hbody : f.body.bytes = body := by
      rw [FrameBody.bytes_eq]
      simp only [sumsBytes_eq, show entryBytes = _ from funext entryBytes_eq]
      rfl
    have hcode : f.body.code = kind := rfl
    have hchecked : f.headAndBody = checked := by
      rw [Frame.headAndBody, hbody, hcode]
      rfl
    rw [Frame.bytes, hchecked, frameCheck_eq]
    rfl
  · rw [FrameBody.valid_iff]
    cases b <;> simp only [sumsValid_iff, entryValid_iff] <;> rfl
  · rw [frameLevels, show byteLevels = _ from funext byteLevels_eq]
  · have hrest := sampled_frameLevels f.bytes levels
    rw [hrest, ← List.append_nil (f.bytes.map _)]
    exact frameOfBytes_bytes h []

/-! ### The layout of a request -/

theorem rawUnitBytes_eq (u : RawUnit) : rawUnitBytes u = beBytes 4 u.tag.toNat ++ [u.kind, u.length, u.width, u.height] ++
    beBytes 2 u.mass.toNat ++ [u.axle, u.port, u.group, u.power, u.reading] ++ u.preferred.toList := by
  simp only [rawUnitBytes, List.append_assoc]

theorem rawEntriesBytes_eq (es : List RawEntry) :
    rawEntriesBytes es = (es.map fun e => [e.state, e.reserved, e.profile]).flatten := by
  rw [rawEntriesBytes, List.flatMap_def]

/-- A request as it is read, RESTART with the levels on the lines. -/
def Instr.onLines (panel switch : Bool) : Instr → Instr
  | .restart _ _ => .restart panel switch
  | i => i

/-- A body is read as its request, and its length is one that the kind allows. -/
structure ReadAs (panel switch : Bool) (i : Instr) (kind : Byte) (body : List Byte) : Prop where
  allowed : lengthAllowed kind.toNat body.length = true
  short : body.length < 256
  read : requestOfBody panel switch kind.toNat body = some (Instr.onLines panel switch i)

theorem readAs_tag {panel switch : Bool} {kind : Byte} {i : Tag → Instr} (tag : Tag) (hlength : lengthAllowed kind.toNat 4 = true)
    (hread : ∀ body, requestOfBody panel switch kind.toNat body =
      some (Instr.onLines panel switch (i (BitVec.ofNat 32 (field body 0 4))))) :
    ReadAs panel switch (i tag) kind (beBytes 4 tag.toNat) where
  allowed := by rwa [beBytes_length]
  short := by rw [beBytes_length]; decide
  read := by rw [hread, tag_of_beBytes]

theorem readAs_unit {panel switch : Bool} (u : RawUnit) :
    ReadAs panel switch (.submitArrival u) 0x10 (rawUnitBytes u) where
  allowed := by
    rw [rawUnitBytes_length]
    cases u.preferred <;> rfl
  short := by
    rw [rawUnitBytes_length]
    cases u.preferred <;> simp
  read := congrArg (fun x => some (Instr.submitArrival x)) (rawUnitOfBytes_rawUnitBytes u)

theorem readAs_restoreUnit {panel switch : Bool} (lane : Byte) (offset : BitVec 16) (u : RawUnit) :
    ReadAs panel switch (.restoreUnit lane offset u) 0x51 (lane :: (beBytes 2 offset.toNat ++ rawUnitBytes u)) where
  allowed := by
    rw [List.length_cons, List.length_append, beBytes_length, rawUnitBytes_length]
    cases u.preferred <;> rfl
  short := by
    rw [List.length_cons, List.length_append, beBytes_length, rawUnitBytes_length]
    cases u.preferred <;> simp
  read := by
    have hoffset : BitVec.ofNat 16 (field (lane :: (beBytes 2 offset.toNat ++ rawUnitBytes u)) 1 2) = offset := by
      rw [show field (lane :: (beBytes 2 offset.toNat ++ rawUnitBytes u)) 1 2 = field (beBytes 2 offset.toNat ++ rawUnitBytes u) 0 2
        from rfl, field_append _ _ 2 (beBytes_length 2 _), beNat_beBytes,
        show offset.toNat % 256 ^ 2 = offset.toNat from Nat.mod_eq_of_lt offset.isLt, BitVec.ofNat_toNat, BitVec.setWidth_eq]
    have hunit : (lane :: (beBytes 2 offset.toNat ++ rawUnitBytes u)).drop 3 = rawUnitBytes u := rfl
    show some (Instr.restoreUnit lane (BitVec.ofNat 16 (field _ 1 2)) (rawUnitOfBytes (List.drop 3 _))) = _
    rw [hoffset, hunit, rawUnitOfBytes_rawUnitBytes]
    rfl

theorem window_of_beBytes (lo hi : BitVec 48) :
    BitVec.ofNat 48 (field (beBytes 6 lo.toNat ++ beBytes 6 hi.toNat) 0 6) = lo ∧
      BitVec.ofNat 48 (field (beBytes 6 lo.toNat ++ beBytes 6 hi.toNat) 6 6) = hi := by
  have hread (x : BitVec 48) : BitVec.ofNat 48 (beNat (beBytes 6 x.toNat)) = x := by
    rw [beNat_beBytes, show x.toNat % 256 ^ 6 = x.toNat from Nat.mod_eq_of_lt x.isLt, BitVec.ofNat_toNat, BitVec.setWidth_eq]
  refine ⟨by rw [field_append _ _ 6 (beBytes_length 6 _), hread], ?_⟩
  rw [field_drop _ _ 6 6 (by rw [beBytes_length]), beBytes_length, Nat.sub_self, field, List.drop_zero,
    List.take_of_length_le (by rw [beBytes_length]), hread]

theorem readAs_setTrimWindow {panel switch : Bool} (lo hi : BitVec 48) :
    ReadAs panel switch (.setTrimWindow lo hi) 0x30 (beBytes 6 lo.toNat ++ beBytes 6 hi.toNat) where
  allowed := by
    rw [List.length_append, beBytes_length, beBytes_length]
    rfl
  short := by
    rw [List.length_append, beBytes_length, beBytes_length]
    decide
  read := by
    obtain ⟨hlo, hhi⟩ := window_of_beBytes lo hi
    show some (Instr.setTrimWindow (BitVec.ofNat 48 (field _ 0 6)) (BitVec.ofNat 48 (field _ 6 6))) = _
    rw [hlo, hhi]
    rfl

theorem requestOfBody_departure (panel switch : Bool) (tag : Tag) (flag : Byte) :
    requestOfBody panel switch 0x22 (beBytes 4 tag.toNat ++ [flag]) =
      some (if flag.getLsbD 0 then .forcedDeparture tag else .reportDeparted tag) := by
  show some (if (byteField (beBytes 4 tag.toNat ++ [flag]) 4).getLsbD 0 then
    Instr.forcedDeparture (BitVec.ofNat 32 (field _ 0 4)) else .reportDeparted (BitVec.ofNat 32 (field _ 0 4))) = _
  rw [tag_of_beBytes_append]
  rfl

theorem readAs_departed {panel switch : Bool} (tag : Tag) :
    ReadAs panel switch (.reportDeparted tag) 0x22 (beBytes 4 tag.toNat ++ [0]) where
  allowed := by
    rw [List.length_append, beBytes_length]
    rfl
  short := by
    rw [List.length_append, beBytes_length]
    decide
  read := requestOfBody_departure panel switch tag 0

theorem readAs_forced {panel switch : Bool} (tag : Tag) :
    ReadAs panel switch (.forcedDeparture tag) 0x22 (beBytes 4 tag.toNat ++ [1]) where
  allowed := by
    rw [List.length_append, beBytes_length]
    rfl
  short := by
    rw [List.length_append, beBytes_length]
    decide
  read := requestOfBody_departure panel switch tag 1

theorem loadPlan_allowed {n : Nat} (h : n ≤ 24) : lengthAllowed 0x40 (3 + 3 * n) = true :=
  (loadPlanLength_iff _).mpr ⟨n, h, rfl⟩

theorem readAs_loadPlan {panel switch : Bool} (target first dflt : Byte) {es : List RawEntry} (h : es.length ≤ 24) :
    ReadAs panel switch (if target = 0 then .loadPlanActive first dflt es else .loadPlanStaged target first dflt es) 0x40
      (target :: first :: dflt :: rawEntriesBytes es) := by
  have hlength : (target :: first :: dflt :: rawEntriesBytes es).length = 3 + 3 * es.length := by
    rw [List.length_cons, List.length_cons, List.length_cons, rawEntriesBytes_length]
    omega
  refine ⟨by rw [hlength]; exact loadPlan_allowed h, by omega, ?_⟩
  have hread : requestOfBody panel switch 0x40 (target :: first :: dflt :: rawEntriesBytes es) =
    some (if target = 0 then .loadPlanActive first dflt (rawEntriesOfBytes (rawEntriesBytes es))
      else .loadPlanStaged target first dflt (rawEntriesOfBytes (rawEntriesBytes es))) := rfl
  rw [show (0x40 : Byte).toNat = 0x40 from rfl, hread, rawEntriesOfBytes_rawEntriesBytes]
  split <;> rfl

theorem readAs_of_parts {i : Instr} {kind : Byte} {body : List Byte} (hwell : i.wellFormed = true)
    (hparts : requestParts i = some (kind, body)) (panel switch : Bool) : ReadAs panel switch i kind body := by
  cases i with
  | null | readStatus | readShipView | readLane | readPeer | readIntake | readPlan | readReport | selectStaged | switchPlan
  | blockLane | unblockLane | beginRestore | endRestore | restart =>
    cases hparts
    exact ⟨rfl, by simp, rfl⟩
  | readUnit tag | submitDeparture tag | withdraw tag | reportParked tag | reportAbandoned tag | reportStayed tag =>
    cases hparts
    exact readAs_tag tag rfl fun _ => rfl
  | submitArrival u =>
    cases hparts
    exact readAs_unit u
  | restoreUnit lane offset u =>
    cases hparts
    exact readAs_restoreUnit lane offset u
  | reportDeparted tag =>
    cases hparts
    exact readAs_departed tag
  | forcedDeparture tag =>
    cases hparts
    exact readAs_forced tag
  | setTrimWindow lo hi =>
    cases hparts
    exact readAs_setTrimWindow lo hi
  | loadPlanActive first dflt es =>
    cases hparts
    exact readAs_loadPlan 0 first dflt (of_decide_eq_true hwell)
  | loadPlanStaged target first dflt es =>
    cases hparts
    simp only [Instr.wellFormed, Bool.and_eq_true, bne_iff_ne, ne_eq, decide_eq_true_eq] at hwell
    have hread := readAs_loadPlan (panel := panel) (switch := switch) target first dflt hwell.2
    rwa [if_neg hwell.1] at hread
  | _ => cases hparts

theorem requestBytes_eq_some_iff (i : Instr) (bytes : List Byte) : requestBytes i = some bytes ↔
    ∃ kind body, requestParts i = some (kind, body) ∧ bytes = kind :: numByte body.length :: body := by
  simp only [requestBytes, Option.map_eq_some_iff, Prod.exists, eq_comm (a := bytes)]

/-- Settles O42. -/
theorem requestRoundTrip : Obligations.RequestRoundTrip := by
  refine ⟨fun i => ?_, fun i hsome => ?_, fun i bytes after panel switch hwell hbytes => ?_⟩
  · intro framed unit entries
    cases i with
    | submitArrival u =>
      rw [requestBytes, requestParts, rawUnitBytes_eq]
      rfl
    | restoreUnit lane offset u =>
      rw [requestBytes, requestParts, rawUnitBytes_eq, ← List.singleton_append, ← List.append_assoc]
      rfl
    | loadPlanActive first dflt es =>
      rw [requestBytes, requestParts, rawEntriesBytes_eq]
      rfl
    | loadPlanStaged target first dflt es =>
      rw [requestBytes, requestParts, rawEntriesBytes_eq]
      rfl
    | _ => rfl
  · cases i with
    | loadPlanActive first dflt es => exact decide_eq_true_iff
    | loadPlanStaged target first dflt es =>
      simp only [Instr.wellFormed, Bool.and_eq_true, bne_iff_ne, decide_eq_true_eq, Config.planPlaces]
    | imageLoadEnd | badRequest | invalidFrame | receiveSummary | receiveIntent | receiveSettle | receiveRetract => cases hsome
    | _ => exact ⟨fun _ => trivial, fun _ => rfl⟩
  · obtain ⟨kind, body, hparts, rfl⟩ := (requestBytes_eq_some_iff i bytes).mp hbytes
    obtain ⟨hallowed, hshort, hread⟩ := readAs_of_parts hwell hparts panel switch
    rw [requestOfBytes_framed panel switch kind body after hshort hallowed, hread]
    cases i <;> rfl

/-! ### The frames the station sends -/

theorem summaryList_length_le (t : IntentTable) : (summaryList t).length ≤ t.open_.length := by
  have hnodup : ((summaryList t).map IntentEntry.id).Nodup :=
    List.pairwise_map.mpr ((summaryList_sorted t).imp fun h => ne_of_lt h)
  have hsubset : (summaryList t).map IntentEntry.id ⊆ t.open_.map Intent.id := fun id hid => by
    obtain ⟨e, he, rfl⟩ := List.mem_map.mp hid
    obtain ⟨it, hmem, -, rfl⟩ := exists_of_mem_summaryList he
    exact List.mem_map_of_mem (f := Intent.id) hmem
  simpa only [List.length_map] using (hnodup.subperm hsubset).length_le

/-- Settles O43. -/
theorem sentFramesValid : Obligations.SentFramesValid := by
  refine ⟨fun s n => ?_, fun s n hsums hrecords hopen hvalid hintent => (FrameBody.valid_iff _).mpr ?_⟩
  · cases n <;> rfl
  · cases n with
    | intent e => exact hintent e rfl
    | settle id => exact hsums
    | retract id => exact trivial
    | summary =>
      refine ⟨hsums, (List.length_filter_le _ _).trans hrecords, (summaryList_length_le _).trans hopen, summaryList_sorted _,
        fun e he => ?_⟩
      obtain ⟨it, hmem, -, rfl⟩ := exists_of_mem_summaryList he
      exact hvalid it hmem

end Sys2Proof.Machine
end

section
/-! PROOFS. What a received notice does (R108, R125, R136), what a changed record hands on (R134), QUIET (R137), silence (R133). -/

namespace Sys2Proof.Machine

open Sys2Proof.Safety

/-! ### A record that changes -/

theorem sameRecorded_iff (a b : List IntentEntry) : sameRecorded a b = true ↔ (∀ e ∈ a, e ∈ b) ∧ ∀ e ∈ b, e ∈ a := by
  simp [sameRecorded]

theorem Peer.changed_iff (p q : Peer) : Peer.changed p q = true ↔
    p.sums ≠ q.sums ∨ p.lock ≠ q.lock ∨ ¬ ((∀ e ∈ p.recorded, e ∈ q.recorded) ∧ ∀ e ∈ q.recorded, e ∈ p.recorded) := by
  rw [← Bool.not_eq_false, Peer.changed_eq_false_iff, sameRecorded_iff]
  tauto

theorem putPeer_of_unchanged {p q : Peer} (h : Peer.changed p q = false) (s : State) :
    putPeer p q s = { s with peers := s.peers.put q } := by
  rw [putPeer, h]
  rfl

theorem putPeer_of_changed {p q : Peer} (h : Peer.changed p q = true) (s : State) : putPeer p q s = settle (releaseHeld
    { s with
      peers := s.peers.put q
      reports :=
        if p.lock ≠ .lost ∧ q.lock = .lost then admitted (.peerLost p.number) s.reports
        else if p.lock = .lost ∧ q.lock = .locked then admitted (.peerRegained p.number) s.reports
        else s.reports }) := by
  unfold putPeer peerReport
  dsimp only
  rw [if_pos h]
  by_cases hlost : p.lock ≠ .lost ∧ q.lock = .lost
  · rw [if_pos hlost, if_pos (by simpa using hlost)]
    rfl
  by_cases hregained : p.lock = .lost ∧ q.lock = .locked
  · rw [if_neg hlost, if_pos hregained, if_neg (by simpa using hlost), if_pos (by simpa using hregained)]
    rfl
  · rw [if_neg hlost, if_neg hregained, if_neg (by simpa using hlost), if_neg (by simpa using hregained)]
    rfl

/-- Settles O46. -/
theorem peerChangeHandsOn : Obligations.PeerChangeHandsOn := by
  intro p q s t changed
  refine ⟨fun h => ?_, fun h => ?_⟩
  · exact putPeer_of_unchanged (Bool.not_eq_true _ ▸ mt (Peer.changed_iff p q).mp h) s
  · exact putPeer_of_changed ((Peer.changed_iff p q).mpr h) s

/-! ### The silence expiry -/

theorem exec_silenceExpiry_of_find {s : State} {im : Image} {n : StationNo} {p : Peer} (him : s.image = some im)
    (hfind : s.peers.find n = some p) :
    exec (.silenceExpiry n) s = event s (p.silentTooLong im) (putPeer p p.fallSilent) := by
  show execSilenceExpiry n s = _
  rw [execSilenceExpiry, him, hfind]

theorem exec_silenceExpiry_of_none {s : State} {n : StationNo} (h : s.image = none ∨ s.peers.find n = none) :
    exec (.silenceExpiry n) s = .next s := by
  show execSilenceExpiry n s = _
  unfold execSilenceExpiry
  rcases h with h | h <;> rw [h]
  cases s.image <;> rfl

theorem Peer.silentTooLong_iff (im : Image) (p : Peer) :
    p.silentTooLong im = true ↔ ∃ ms, p.silence = .running ms ∧ ¬ ms < im.silence * im.heartbeat := by
  rw [Peer.silentTooLong]
  cases p.silence with
  | running ms =>
    refine decide_eq_true_iff.trans ⟨fun h => ⟨ms, rfl, Nat.not_lt.mpr h⟩, fun ⟨_, heq, h⟩ => ?_⟩
    cases heq
    exact Nat.not_lt.mp h
  | stopped | atLimit => simp

/-- R133: a trusted record is lost, and what that hands on. -/
theorem putPeer_fallSilent_trusted {p : Peer} (h : p.lock = .locked ∨ p.lock = .doubtful) (s : State) :
    putPeer p p.fallSilent s = settle (releaseHeld (post (.peerLost p.number)
      { s with peers := s.peers.put { p with silence := .atLimit, lock := .lost } })) := by
  have hfall : p.fallSilent = { p with silence := .atLimit, lock := .lost } := by
    rcases h with h | h <;> simp [Peer.fallSilent, h, Lock.untrusted]
  have hlock : p.lock ≠ .lost := by
    rcases h with h | h <;> simp [h]
  have hchanged : Peer.changed p p.fallSilent = true := by
    rw [hfall]
    exact (Peer.changed_iff _ _).mpr (.inr (.inl hlock))
  rw [putPeer_of_changed hchanged, hfall, if_pos ⟨hlock, rfl⟩]
  rfl

theorem putPeer_fallSilent_untrusted {p : Peer} (h : ¬ (p.lock = .locked ∨ p.lock = .doubtful)) (s : State) :
    putPeer p p.fallSilent s = { s with peers := s.peers.put { p with silence := .atLimit } } := by
  have hfall : p.fallSilent = { p with silence := .atLimit } := by
    unfold Peer.fallSilent
    cases hlock : p.lock <;> simp [hlock, Lock.untrusted] at h ⊢
  rw [putPeer_of_unchanged, hfall]
  rw [hfall, Peer.changed_eq_false_iff, sameRecorded_iff]
  exact ⟨⟨rfl, fun _ he => he, fun _ he => he⟩, rfl⟩

/-- Settles O48. -/
theorem silenceOutcome : Obligations.SilenceOutcome := by
  refine ⟨fun n s h => ?_, fun n s im p ms him hfind hsilence => ?_⟩
  · rcases h with h | h | ⟨p, hfind, hstopped⟩
    · exact exec_silenceExpiry_of_none (.inl h)
    · exact exec_silenceExpiry_of_none (.inr h)
    · cases him : s.image with
      | none => exact exec_silenceExpiry_of_none (.inl him)
      | some im =>
        rw [exec_silenceExpiry_of_find him hfind]
        exact event_of_false fun hsilent => ((Peer.silentTooLong_iff im p).mp hsilent).elim fun ms h => hstopped ms h.1
  · intro put
    have hnumber : p.number = n := PeerTable.number_of_find hfind
    rw [exec_silenceExpiry_of_find him hfind, event_of_iff (P := ¬ ms < im.silence * im.heartbeat), ite_not]
    · congr 1
      refine if_congr Iff.rfl rfl ?_
      subst hnumber
      by_cases hlock : p.lock = .locked ∨ p.lock = .doubtful
      · rw [if_pos hlock, putPeer_fallSilent_trusted hlock]
        rfl
      · rw [if_neg hlock, putPeer_fallSilent_untrusted hlock]
        rfl
    · rw [Peer.silentTooLong_iff, hsilence]
      simp

/-! ### A received notice -/

theorem exec_receiveCommand (head : FrameHead) (body : FrameBody) (s : State) :
    exec (receiveCommand head body) s = receive head body s := by
  cases body <;> rfl

theorem hearing_iff_not {s : State} (hheld : s.control.held = false) :
    hearing s = true ↔ ¬ (s.bus.line = .unsynced ∨ s.bus.line = .judged) := by
  rw [hearing_iff]
  cases s.bus.line <;> simp [hheld]

theorem not_handedOver_iff (s : State) (head : FrameHead) (body : FrameBody) : (handsOver s head && body.valid) = true ↔
    ¬ (head.inService = false ∨ s.control.station = .loading ∨ s.control.station = .faulted ∨ body.valid = false) := by
  rw [handsOver, ← or_assoc (b := s.control.station = .faulted), ← serving_eq_false_iff]
  cases head.inService <;> cases s.control.station.serving <;> cases body.valid <;> decide

theorem working_of_serving {st : StationState} (h : ¬ (st = .loading ∨ st = .faulted)) : st.working = true ↔ st ≠ .quiet := by
  cases st <;> simp [StationState.working] at h ⊢

theorem takeStray_eq (n : StationNo) (s : State) : takeStray n s =
    if n ∈ s.peers.stray then s
    else
      { s with
        peers := { s.peers with stray := s.peers.stray ++ [n] }
        reports := admitted (.strayStation n) s.reports } := by
  rw [takeStray]
  exact if_congr List.contains_iff_mem rfl rfl

/-- R125: a frame taken in, by its station number. -/
theorem takeFrame_eq (im : Image) (f : Frame) {s : State} (h : ¬ (s.control.station = .loading ∨ s.control.station = .faulted)) :
    takeFrame im f s =
      if f.station = im.stationNo then
        if s.control.station = .quiet then s else enterQuiet im s
      else
        match s.peers.find f.station with
        | some p => putPeer p (p.take f) s
        | none => takeStray f.station s := by
  rw [takeFrame]
  refine if_congr Iff.rfl ?_ rfl
  by_cases hquiet : s.control.station = .quiet
  · rw [if_pos hquiet, if_neg fun hworking => (working_of_serving h).mp hworking hquiet]
  · rw [if_neg hquiet, if_pos ((working_of_serving h).mpr hquiet)]

/-- Settles O44. -/
theorem receiveOutcome : Obligations.ReceiveOutcome := by
  refine ⟨fun _ _ => rfl, fun head body s hheld => ?_⟩
  rw [exec_receiveCommand, receive, event_of_iff (P := ¬ (s.bus.line = .unsynced ∨ s.bus.line = .judged)), ite_not]
  · congr 1
    refine if_congr Iff.rfl rfl ?_
    cases him : s.image with
    | none => rw [lineJudged, him]
    | some im =>
      dsimp only
      by_cases hdiscarded : head.inService = false ∨ s.control.station = .loading ∨ s.control.station = .faulted ∨ body.valid = false
      · rw [if_pos hdiscarded, if_neg (fun h => (not_handedOver_iff s head body).mp h hdiscarded)]
        rw [lineJudged, him]
      · have hserving : ¬ ((lineJudged s).control.station = .loading ∨ (lineJudged s).control.station = .faulted) :=
          show ¬ (s.control.station = .loading ∨ s.control.station = .faulted) by tauto
        rw [if_neg hdiscarded, if_pos ((not_handedOver_iff s head body).mpr hdiscarded), takeFrame_eq im _ hserving]
        simp only [takeStray_eq, lineJudged, him] <;> rfl
  · exact hearing_iff_not hheld

/-! ### QUIET -/

theorem enterQuiet_eq (im : Image) (s : State) : enterQuiet im s =
    match s.intents.open_.find? fun it => it.state == .unannounced with
    | none => quieted im s
    | some it => cancelIntent im it (quieted im s) := by
  cases hfind : s.intents.open_.find? fun it => it.state == .unannounced with
  | none => exact enterQuiet_of_none hfind im
  | some it => exact enterQuiet_of_some hfind im

/-- The reports that a change keeps at the front of the queue. -/
def ReportsGrow (s u : State) : Prop := ∃ more, u.reports = s.reports ++ more

theorem ReportsGrow.refl (s : State) : ReportsGrow s s := ⟨[], (List.append_nil _).symm⟩

theorem ReportsGrow.trans {s t u : State} (h : ReportsGrow s t) (k : ReportsGrow t u) : ReportsGrow s u := by
  obtain ⟨more, hmore⟩ := h
  obtain ⟨rest, hrest⟩ := k
  exact ⟨more ++ rest, by rw [hrest, hmore, List.append_assoc]⟩

theorem reportsGrow_of_eq {s u : State} (h : u.reports = s.reports) : ReportsGrow s u := ⟨[], by rw [h, List.append_nil]⟩

theorem reportsGrow_post (r : Report) (s : State) : ReportsGrow s (post r s) := by
  unfold ReportsGrow
  rw [post_reports, admitted]
  split
  · exact ⟨[r], rfl⟩
  · exact ⟨[], (List.append_nil _).symm⟩

theorem reportsGrow_compareNearFull (im : Image) (lane : Nat) (s : State) : ReportsGrow s (compareNearFull im lane s) := by
  unfold compareNearFull
  dsimp only
  split_ifs
  · exact .refl s
  · exact (reportsGrow_of_eq rfl).trans (reportsGrow_post _ _)
  · exact reportsGrow_of_eq rfl

theorem reportsGrow_compareChanged (im : Image) (before : PlanStore) (lanes : List Nat) (s : State) :
    ReportsGrow s (compareChanged im before lanes s) := by
  induction lanes generalizing s with
  | nil => exact .refl s
  | cons lane rest ih =>
    rw [compareChanged]
    refine ReportsGrow.trans ?_ (ih _)
    split
    · exact .refl s
    · exact reportsGrow_compareNearFull im lane s

theorem reportsGrow_settle (s : State) : ReportsGrow s (settle s) := by
  unfold settle
  split
  · exact .refl s
  · dsimp only
    split
    · exact .refl s
    · exact (reportsGrow_of_eq rfl).trans (reportsGrow_post _ _)

theorem reportsGrow_applyPending (im : Image) (lane : Nat) (s : State) : ReportsGrow s (applyPending im lane s) := by
  unfold applyPending
  split
  · exact .refl s
  · split
    · exact .refl s
    · exact ((reportsGrow_of_eq rfl).trans (reportsGrow_post _ _)).trans (reportsGrow_compareChanged im _ _ _)

theorem reportsGrow_freed (im : Image) (lane : Nat) (s : State) : ReportsGrow s (freed im lane s) :=
  ((reportsGrow_applyPending im lane s).trans (reportsGrow_of_eq rfl)).trans (reportsGrow_settle _)

theorem reportsGrow_refuseMarked (s : State) : ReportsGrow s (refuseMarked s) := by
  rcases refuseMarked_cases s with h | ⟨e, -, -, h⟩ <;> rw [h]
  · exact .refl s
  · exact ⟨_, rfl⟩

theorem reportsGrow_cancelSteps (im : Image) (it : Intent) (s : State) : ReportsGrow s (cancelSteps im it s) := by
  unfold ReportsGrow
  rw [cancelSteps_reports]
  unfold cancelRecord
  split
  · exact (reportsGrow_of_eq rfl).trans (reportsGrow_compareNearFull im _ _)
  · exact ReportsGrow.refl s
  · exact ReportsGrow.refl s

theorem reportsGrow_cancelIntent (im : Image) (it : Intent) (s : State) : ReportsGrow s (cancelIntent im it s) :=
  ((reportsGrow_cancelSteps im it s).trans (reportsGrow_freed im _ _)).trans (reportsGrow_refuseMarked _)

theorem reportsGrow_enterQuiet (im : Image) (s : State) : ReportsGrow (quieted im s) (enterQuiet im s) := by
  rw [enterQuiet_eq]
  split
  · exact .refl _
  · exact reportsGrow_cancelIntent im _ _

theorem dropIntent_of_empty {b : Bus} (h : b.queue = []) (id : IntentId) : b.dropIntent id = b := by
  rw [Bus.dropIntent, h]

theorem enterQuiet_bus (im : Image) (s : State) : (enterQuiet im s).bus = s.bus.silence := by
  rw [enterQuiet_eq]
  split
  · rfl
  · rw [cancelIntent, (refuseMarked_frame _).2.2.2.2.2.2.1, (freed_frame im _ _).2.2.2.2.2.1, cancelSteps_bus,
      dropIntent_of_empty (by rfl)]
    rfl

theorem enterQuiet_control (im : Image) (s : State) :
    (enterQuiet im s).control = { s.control with station := .quiet, listen := none } := by
  rw [enterQuiet_eq]
  split
  · rfl
  · rw [(cancelIntent_frame im _ _).2.1]
    rfl

theorem enterQuiet_peers (im : Image) (s : State) : (enterQuiet im s).peers = s.peers := by
  rw [enterQuiet_eq]
  split
  · rfl
  · rw [(cancelIntent_frame im _ _).2.2.2.1]
    rfl

theorem gateOpen_of_not_joined {s : State} (h : s.control.station ≠ .joined) : gateOpen s = false := by
  unfold gateOpen
  cases s.image with
  | none => rfl
  | some im => simp [h]

/-- R88: of at most one UNANNOUNCED intent, QUIET leaves none. -/
theorem enterQuiet_announced {im : Image} {s : State} (h : (s.intents.open_.filter fun it => it.state == .unannounced).length ≤ 1) :
    ∀ it ∈ (enterQuiet im s).intents.open_, it.state ≠ .unannounced := by
  rw [enterQuiet_eq]
  cases hfind : s.intents.open_.find? fun it => it.state == .unannounced with
  | none =>
    intro it hit
    simpa using List.find?_eq_none.mp hfind it hit
  | some x =>
    intro it hit hstate
    rw [(cancelIntent_blocks im x _).2.1] at hit
    obtain ⟨hmem, hid⟩ := List.mem_filter.mp hit
    have hfilter (y : Intent) (hy : y ∈ s.intents.open_) (hystate : y.state = .unannounced) :
        y ∈ s.intents.open_.filter fun it => it.state == .unannounced :=
      List.mem_filter.mpr ⟨hy, beq_iff_eq.mpr hystate⟩
    have hx := hfilter x (List.mem_of_find?_eq_some hfind) (by simpa using List.find?_some hfind)
    obtain rfl : it = x := by
      obtain ⟨only, honly⟩ := List.length_eq_one_iff.mp (le_antisymm h (List.length_pos_of_mem hx))
      have hit' := hfilter it hmem hstate
      rw [honly, List.mem_singleton] at hx hit'
      rw [hx, hit']
    simp at hid

theorem enterQuiet_kept {im : Image} {s : State} {it : Intent} (hmem : it ∈ s.intents.open_) (hstate : it.state ≠ .unannounced)
    (hnodup : (s.intents.open_.map Intent.id).Nodup) : it ∈ (enterQuiet im s).intents.open_ := by
  rw [enterQuiet_eq]
  cases hfind : s.intents.open_.find? fun it => it.state == .unannounced with
  | none => exact hmem
  | some x =>
    dsimp only
    rw [(cancelIntent_blocks im x _).2.1]
    refine List.mem_filter.mpr ⟨hmem, bne_iff_ne.mpr fun hid => hstate ?_⟩
    rw [List.inj_on_of_nodup_map hnodup hmem (List.mem_of_find?_eq_some hfind) hid]
    simpa using List.find?_some hfind

/-- Settles O47. -/
theorem quietEntry : Obligations.QuietEntry := by
  refine ⟨fun im s => enterQuiet_eq im s, fun head body s im him hheld hline hstation hown hservice hvalid hone => ?_⟩
  have hserving : ¬ (s.control.station = .loading ∨ s.control.station = .faulted) := by
    rcases hstation with h | h | h <;> simp [h]
  have hquiet : s.control.station ≠ .quiet := by
    rcases hstation with h | h | h <;> simp [h]
  have hexec : exec (receiveCommand head body) s = .next (enterQuiet im (lineJudged s)) := by
    rw [receiveOutcome.2 head body s hheld]
    dsimp only
    rw [if_neg (by rcases hline with h | h <;> simp [h]), him]
    dsimp only
    rw [if_neg (by simp [hservice, hvalid, not_or.mp hserving]), if_pos hown, if_neg hquiet, lineJudged, him]
  refine ⟨_, hexec, enterQuiet_control im _, ?_, ?_, ?_, ?_, ?_, ?_, enterQuiet_peers im _, ?_, ?_,
    enterQuiet_announced hone, fun it hmem hstate hnodup => enterQuiet_kept hmem hstate hnodup, fun hroom => ?_⟩
  · rw [enterQuiet_bus]
    rfl
  · rw [enterQuiet_bus]
    rfl
  · rw [enterQuiet_bus]
    rfl
  · rw [enterQuiet_bus]
    rfl
  · rw [enterQuiet_bus]
    rfl
  · rw [enterQuiet_bus]
    rfl
  · exact (alarmAsserted_iff _).mpr (.inr (.inr (by rw [enterQuiet_control])))
  · exact gateOpen_of_not_joined (by simp [enterQuiet_control])
  · obtain ⟨more, hmore⟩ := reportsGrow_enterQuiet im (lineJudged s)
    refine ⟨more, ?_⟩
    rw [hmore, show (quieted im (lineJudged s)).reports = admitted _ s.reports from rfl, admitted_status rfl, if_pos hroom,
      List.append_assoc]
    rfl

end Sys2Proof.Machine
end

section
/-! PROOFS. The requests about plans, lanes and the trim window (R71, R144 to R147, R152), and a change of PANEL (R4). -/

namespace Sys2Proof.Machine

open Sys2Proof.Safety

/-! ### The trim window -/

theorem windowAcceptable_iff (lo hi : Int) :
    windowAcceptable lo hi = true ↔ lo ≤ hi ∧ -12288000000 ≤ lo ∧ hi ≤ 12288000000 := by
  simp only [windowAcceptable, windowMax, Bool.and_eq_true, decide_eq_true_eq]
  omega

/-- Settles O49. -/
theorem setTrimWindowOutcome : Obligations.SetTrimWindowOutcome := by
  intro lo hi s hr
  show serveCode s (setWindow lo.toInt hi.toInt) = _
  rw [(setWindow_portFree _ _).serveCode_received hr, setWindow, answerWith_whileWorking]
  refine whileServed_congr fun im _ => ?_
  rw [answerWith_ite]
  exact if_congr (windowAcceptable_iff _ _) rfl rfl

/-! ### LOAD PLAN -/

theorem RawEntry.entry_eq (e : RawEntry) : e.entry =
    { closed := decide (e.state = 1)
      reserved := if e.reserved = 0 then none else some e.reserved.toNat
      profile := if e.profile = 0xFF then none else some e.profile.toNat } := by
  have hone : e.state.toNat = 1 ↔ e.state = 1 := (byte_eq_iff e.state 1).symm
  have hzero : e.reserved.toNat = 0 ↔ e.reserved = 0 := (byte_eq_iff e.reserved 0).symm
  have hclosed : (e.state.toNat == 1) = decide (e.state = 1) := decide_eq_decide.mpr hone
  have hreserved : (if e.reserved.toNat = 0 then none else some e.reserved.toNat) =
      if e.reserved = 0 then none else some e.reserved.toNat := if_congr hzero rfl rfl
  rw [RawEntry.entry, hclosed, hreserved]

/-- R145 steps 2 and 3: the extents and values that are refused. -/
theorem not_loadAcceptable_iff (im : Image) (first dflt : Byte) (es : List RawEntry) : (!loadAcceptable im first dflt es) = true ↔
    im.laneCount ≤ first.toNat ∨ (es = [] ∧ dflt = 0xFF) ∨
      (∃ e ∈ es, 1 < e.state.toNat ∨ 6 < e.reserved.toNat ∨ (15 < e.profile.toNat ∧ e.profile ≠ 0xFF)) ∨
      (15 < dflt.toNat ∧ dflt ≠ 0xFF) := by
  have hentry (e : RawEntry) : e.acceptable = false ↔
      1 < e.state.toNat ∨ 6 < e.reserved.toNat ∨ (15 < e.profile.toNat ∧ e.profile ≠ 0xFF) := by
    simp only [RawEntry.acceptable, Bool.and_eq_false_iff, Bool.or_eq_false_iff, decide_eq_false_iff_not, Nat.not_le,
      beq_eq_false_iff_ne, or_assoc]
  have hdflt : dfltAcceptable dflt = false ↔ 15 < dflt.toNat ∧ dflt ≠ 0xFF := by
    simp only [dfltAcceptable, Bool.or_eq_false_iff, decide_eq_false_iff_not, Nat.not_le, beq_eq_false_iff_ne]
  have hempty : (!(es.isEmpty && dflt == 0xFF)) = false ↔ es = [] ∧ dflt = 0xFF := by
    simp only [Bool.not_eq_false', Bool.and_eq_true, List.isEmpty_iff, beq_iff_eq]
  simp only [loadAcceptable, Bool.not_eq_true', Bool.and_eq_false_iff, decide_eq_false_iff_not, Nat.not_lt, hempty,
    List.all_eq_false, Bool.not_eq_true, hentry, hdflt, or_assoc]

theorem takenEntries_eq (laneCount first : Nat) (es : List RawEntry) : takenEntries laneCount first es =
    ((es.take (laneCount - first)).zipIdx first).map fun x => (x.2, x.1.entry) := by
  induction es generalizing first with
  | nil => simp [takenEntries]
  | cons e rest ih =>
    rw [takenEntries]
    by_cases h : first < laneCount
    · rw [if_pos h, ih, show laneCount - first = laneCount - (first + 1) + 1 by omega]
      rfl
    · rw [if_neg h, show laneCount - first = 0 by omega]
      rfl

/-- R145 step 5: a place takes its entry, where the LOAD PLAN has one for a lane of the deck. -/
theorem foldl_setEntry_getElem? (laneCount first : Nat) (es : List RawEntry) (p : Plan) (k : Nat) :
    (((takenEntries laneCount first es).foldl (fun q e => q.setEntry e.1 e.2) p).entries)[k]? =
      p.entries[k]?.map fun old =>
        if first ≤ k ∧ k < laneCount then (es[k - first]?.map RawEntry.entry).getD old else old := by
  induction es generalizing first p with
  | nil => simp [takenEntries]
  | cons e rest ih =>
    rw [takenEntries]
    by_cases h : first < laneCount
    · rw [if_pos h, List.foldl_cons, ih, show (p.setEntry first e.entry).entries = p.entries.set first e.entry from rfl,
        List.getElem?_set]
      rcases Nat.lt_trichotomy first k with hlt | rfl | hgt
      · rw [if_neg (by omega), show k - first = k - (first + 1) + 1 by omega, List.getElem?_cons_succ]
        refine congrArg (fun f => Option.map f p.entries[k]?) (funext fun old => if_congr ?_ rfl rfl)
        omega
      · rw [if_pos rfl]
        cases hk : p.entries[first]? with
        | none => simp [List.getElem?_eq_none_iff.mp hk]
        | some old =>
          have := (List.getElem?_eq_some_iff.mp hk).1
          simp [h, this]
      · rw [if_neg (by omega)]
        refine congrArg (fun f => Option.map f p.entries[k]?) (funext fun old => ?_)
        rw [if_neg (by omega), if_neg (by omega)]
    · rw [if_neg h, List.foldl_nil]
      cases p.entries[k]? with
      | none => rfl
      | some old => rw [Option.map_some, if_neg (by omega)]

theorem Plan.write_eq (p : Plan) (laneCount first : Nat) (es : List RawEntry) (dflt : Option Nat) :
    p.write (takenEntries laneCount first es) dflt =
      { entries := p.entries.mapIdx fun lane old =>
          if first ≤ lane ∧ lane < laneCount then (es[lane - first]?.map RawEntry.entry).getD old else old
        dflt := dflt.getD p.dflt } := by
  rw [Plan.write]
  congr 1
  refine List.ext_getElem? fun k => ?_
  rw [foldl_setEntry_getElem?, List.getElem?_mapIdx]

theorem stagedOfCode_eq (b : Byte) : stagedOfCode b = if b = 1 then some .a else if b = 2 then some .b else none := rfl

theorem answerWith_loadActive (first dflt : Byte) (es : List RawEntry) (s : State) : answerWith s (loadActive first dflt es s) =
    whileServed s fun im =>
      if im.switchMode ≠ .direct then reply .wrongMode s s
      else if (!loadAcceptable im first dflt es) = true then reply .badValue s s
      else reply .done s (switchOver im (takenEntries im.laneCount first.toNat es) (dfltOfByte dflt) s) := by
  rw [loadActive, answerWith_whileWorking]
  refine whileServed_congr fun im _ => ?_
  rw [answerWith_ite, answerWith_ite]
  rfl

theorem answerWith_loadStaged (which : Staged) (first dflt : Byte) (es : List RawEntry) (s : State) :
    answerWith s (loadStaged which first dflt es s) = whileServed s fun im =>
      if (!loadAcceptable im first dflt es) = true then reply .badValue s s
      else reply .done s
        { s with plans := writeStaged which (takenEntries im.laneCount first.toNat es) (dfltOfByte dflt) s.plans } := by
  rw [loadStaged, answerWith_whileWorking]
  refine whileServed_congr fun im _ => ?_
  rw [answerWith_ite]
  rfl

/-- Settles O50. -/
theorem loadPlanOutcome : Obligations.LoadPlanOutcome := by
  refine ⟨RawEntry.entry_eq, fun target first dflt es s hr => ?_⟩
  intro bad carried written
  refine ⟨?_, fun htarget => ?_⟩
  · show serveCode s (loadPlan 0 first dflt es) = _
    rw [(loadPlan_portFree 0 first dflt es).serveCode_received hr, loadPlan, if_pos rfl, answerWith_loadActive]
    refine whileServed_congr fun im _ => if_congr Iff.rfl rfl (if_congr (not_loadAcceptable_iff im first dflt es) rfl ?_)
    rw [takenEntries_eq]
    rfl
  · show serveCode s (loadPlan target first dflt es) = _
    rw [(loadPlan_portFree target first dflt es).serveCode_received hr, loadPlan, if_neg htarget, stagedOfCode_eq]
    by_cases hone : target = 1
    · rw [if_pos hone, answerWith_loadStaged]
      refine whileServed_congr fun im _ => ?_
      rw [if_neg (show ¬(target ≠ 1 ∧ target ≠ 2) from fun h => h.1 hone)]
      refine if_congr (not_loadAcceptable_iff im first dflt es) rfl ?_
      rw [if_pos hone, writeStaged, Plan.write_eq]
      rfl
    by_cases htwo : target = 2
    · rw [if_neg hone, if_pos htwo, answerWith_loadStaged]
      refine whileServed_congr fun im _ => ?_
      rw [if_neg (show ¬(target ≠ 1 ∧ target ≠ 2) from fun h => h.2 htwo)]
      refine if_congr (not_loadAcceptable_iff im first dflt es) rfl ?_
      rw [if_neg hone, writeStaged, Plan.write_eq]
      rfl
    · rw [if_neg hone, if_neg htwo]
      dsimp only
      rw [answerWith_whileWorking]
      refine whileServed_congr fun im _ => ?_
      rw [if_pos ⟨hone, htwo⟩]
      rfl

/-! ### Switch-overs asked for -/

/-- R148: a switch-over from a staged plan, with that plan's entries and default. -/
theorem switchFromStaged_eq (im : Image) (which : Staged) (s : State) : switchFromStaged im which s =
    switchOver im ((List.range im.laneCount).map fun lane => (lane, (s.plans.staged which).entry lane))
      (some (s.plans.staged which).dflt) (copyUnused im (s.plans.staged which) s) := rfl

theorem working_iff (st : StationState) : st.working = true ↔ st = .listening ∨ st = .restoring ∨ st = .joined := by
  cases st <;> decide

/-- Settles O51. -/
theorem planSwitchCommands : Obligations.PlanSwitchCommands := by
  intro target s fromPlan
  refine ⟨fun hr => ?_, fun hr => ?_, ?_, ?_⟩
  · show serveCode s (selectStaged target) = _
    rw [(selectStaged_portFree target).serveCode_received hr, selectStaged, answerWith_whileWorking, stagedOfCode_eq]
    refine whileServed_congr fun im _ => ?_
    rw [answerWith_ite]
    refine if_congr Iff.rfl rfl ?_
    split_ifs <;> rfl
  · show serveCode s (switchPlan target) = _
    rw [(switchPlan_portFree target).serveCode_received hr, switchPlan, answerWith_whileWorking, stagedOfCode_eq]
    refine whileServed_congr fun im _ => ?_
    rw [answerWith_ite]
    refine if_congr Iff.rfl rfl ?_
    split_ifs <;> rfl
  · show execSwitchEdge s = _
    rw [execSwitchEdge, event_of_iff (P := s.control.held = false ∧ s.plans.switchLevel = false) _ (by simp)]
    congr 1
    refine if_congr Iff.rfl ?_ rfl
    unfold switchAsserted
    cases him : s.image with
    | none => rw [setSwitch, him]
    | some im =>
      dsimp only
      refine if_congr (and_comm.trans (and_congr_right fun _ => working_iff _)) ?_ ?_
      · simp only [switchFromStaged_eq, setSwitch, him, PlanStore.staged] <;> rfl
      · rw [setSwitch, him]
  · show execSwitchNegated s = _
    rw [execSwitchNegated, event_of_iff (P := s.control.held = false ∧ s.plans.switchLevel = true) _ (by simp)]
    rfl

/-! ### Lanes blocked, and PANEL -/

theorem PlanStore.setLane_eq_modify (p : PlanStore) (lane : Nat) (f : LaneState → LaneState) :
    p.setLane lane (f (p.lane lane)) = { p with lanes := p.lanes.modify lane f } := by
  rw [PlanStore.setLane, PlanStore.lane, set_getD]

theorem serveCode_setBlock {s : State} (hr : Received s) (blocked : Bool) (lane : Nat) :
    serveCode s (setBlock blocked lane) = whileServed s fun im =>
      if im.laneCount ≤ lane then reply .badValue s s
      else reply .done s
        { s with
          plans := { s.plans with lanes := s.plans.lanes.modify lane fun ls => { ls with blocked := blocked } }
          intake := s.intake.map Entry.release } := by
  rw [(setBlock_portFree blocked lane).serveCode_received hr, setBlock, answerWith_whileWorking]
  refine whileServed_congr fun im _ => ?_
  rw [answerWith_ite, PlanStore.setLane_eq_modify s.plans lane fun ls => { ls with blocked := blocked }]
  rfl

/-- R4: the CLEARANCE CONFLICT of a lane whose clearance falls below a unit it holds. -/
def laneConflict (im : Image) (records : List UnitRecord) (lane : Nat) : Option Report :=
  if (im.lane lane).low < (im.lane lane).high ∧ 0 < conflictCount im records lane then
    some (.clearanceConflict lane (conflictCount im records lane))
  else none

theorem postConflicts_eq (im : Image) (lanes : List Nat) (s : State) : postConflicts im lanes s =
    { s with reports := (lanes.filterMap (laneConflict im s.units.records)).foldl (fun q r => admitted r q) s.reports } := by
  induction lanes generalizing s with
  | nil => rfl
  | cons lane rest ih =>
    rw [postConflicts, ih, List.filterMap_cons, laneConflict]
    split_ifs <;> rfl

theorem panelChanged_eq (lowered : Bool) (s : State) : panelChanged lowered s =
    { s with
      units := { s.units with lowered := lowered }
      intake := s.intake.map Entry.release
      reports :=
        match s.image with
        | none => s.reports
        | some im =>
          if lowered then
            ((List.range im.laneCount).filterMap (laneConflict im s.units.records)).foldl (fun q r => admitted r q) s.reports
          else s.reports } := by
  unfold panelChanged
  cases lowered with
  | false => cases s.image <;> simp only [releaseHeld] <;> rfl
  | true => cases s.image <;> simp only [releaseHeld, postConflicts_eq] <;> rfl

/-- Settles O52. -/
theorem blocksAndPanel : Obligations.BlocksAndPanel := by
  intro lane lowered s blocked
  refine ⟨fun hr => serveCode_setBlock hr true lane.toNat, fun hr => serveCode_setBlock hr false lane.toNat, ?_⟩
  intro conflicts
  show execPanelChange lowered s = _
  rw [execPanelChange, event_of_iff (P := s.control.held = false ∧ lowered ≠ s.units.lowered) _ (by simp), panelChanged_eq]
  rfl

end Sys2Proof.Machine
end

section
/-! PROOFS. Lanes and their plan entries: the near-full state and the pending entry (R10, R143, R150, R153), and a switch-over
(R148, R149, R154). -/

namespace Sys2Proof.Machine

open Sys2Proof.Safety

/-! ### Free length and threshold -/

theorem freeLength_eq (im : Image) (records : List UnitRecord) (lane : Nat) : freeLength im records lane =
    match (records.filter fun r => r.lane == lane).getLast? with
    | none => ((im.lane lane).len : Int)
    | some r => (im.lane lane).len - (r.offset + r.unit.length + im.gap : Nat) := by
  rw [freeLength, occupied, newestOn, onLane]
  cases (records.filter fun r => r.lane == lane).getLast? with
  | none => exact Int.sub_zero _
  | some r => rfl

theorem threshold_eq (im : Image) (p : PlanStore) (lane : Nat) : threshold im p lane =
    match (p.active.entry lane).profile with
    | some n => (im.profiles.getD n Profile.none).threshold
    | none => (im.profiles.getD p.active.dflt Profile.none).threshold := by
  rw [threshold, effectiveProfile, PlanStore.profileNo]
  cases (p.active.entry lane).profile <;> rfl

/-- A lane's threshold is read from the active plan alone. -/
theorem threshold_congr {p q : PlanStore} (h : p.active = q.active) (im : Image) (lane : Nat) :
    threshold im p lane = threshold im q lane := by
  rw [threshold_eq, threshold_eq, h]

theorem nearlyFull_eq (im : Image) (s : State) (lane : Nat) :
    nearlyFull im s lane = decide (freeLength im s.units.records lane < threshold im s.plans lane) := rfl

/-- R153, the table of near-full states. -/
theorem compareNearFull_table (im : Image) (lane : Nat) (s : State) :
    let free := freeLength im s.units.records lane
    let put := fun (b : Bool) =>
      { s with plans := { s.plans with lanes := s.plans.lanes.modify lane fun ls => { ls with reported := b } } }
    compareNearFull im lane s =
      match (s.plans.lane lane).reported, decide (free < threshold im s.plans lane) with
      | false, true => { put true with reports := admitted (.laneNearFull lane free) s.reports }
      | false, false => s
      | true, true => s
      | true, false => put false := by
  intro free put
  rw [compareNearFull_eq, ← nearlyFull_eq]
  cases (s.plans.lane lane).reported <;> cases nearlyFull im s lane <;> rfl

/-! ### The pending entry of a lane -/

theorem takeEntry_eq (lane : Nat) (e : PlanEntry) (s : State) : takeEntry lane e s =
    { s with
      plans := { s.plans with
        active := { s.plans.active with entries := s.plans.active.entries.set lane e }
        lanes := s.plans.lanes.modify lane fun ls => { ls with pending := none } }
      reports := admitted (.laneEntryApplied lane s.plans.generation) s.reports } := by
  have hlane := PlanStore.setLane_eq_modify { s.plans with active := s.plans.active.setEntry lane e } lane
    fun ls => { ls with pending := none }
  rw [PlanStore.lane] at hlane
  rw [takeEntry, PlanStore.lane, hlane]
  rfl

theorem applyPending_of_none {s : State} {lane : Nat} (h : (s.plans.lane lane).pending = none) (im : Image) :
    applyPending im lane s = s := by
  rw [applyPending, h]

theorem applyPending_of_some {s : State} {lane : Nat} {e : PlanEntry} (h : (s.plans.lane lane).pending = some e) (im : Image) :
    applyPending im lane s =
      if intentOnLane s lane = true then s
      else if threshold im (takeEntry lane e s).plans lane = threshold im s.plans lane then takeEntry lane e s
      else compareNearFull im lane (takeEntry lane e s) := by
  rw [applyPending, h]
  rfl

/-- Settles O54. -/
theorem nearFullAndPending : Obligations.NearFullAndPending := by
  refine ⟨threshold_eq, freeLength_eq, fun im lane s _ _ => ?_⟩
  intro free put
  refine ⟨compareNearFull_table im lane s, ?_⟩
  cases hp : (s.plans.lane lane).pending with
  | none => exact applyPending_of_none hp im
  | some e =>
    dsimp only
    by_cases hon : intentOnLane s lane = true
    · rw [if_pos ((intentOnLane_iff s lane).mp hon), applyPending_of_some hp, if_pos hon]
    · rw [if_neg (mt (intentOnLane_iff s lane).mpr hon), applyPending_of_some hp, if_neg hon, takeEntry_eq]

/-! ### The lanes of a switch-over -/

/-- R148, the table: a lane's entry in force and its own part, after a new entry for it. -/
def switchedLane (s : State) (lane : Nat) (new c : PlanEntry) (ls : LaneState) : PlanEntry × LaneState :=
  if new = c then (c, { ls with pending := none })
  else if ls.pending.isSome || intentOnLane s lane then (c, { ls with pending := some new })
  else (new, ls)

theorem switchLane_same {p : PlanStore} {lane : Nat} (hlane : lane < p.lanes.length) (hentry : lane < p.active.entries.length)
    (s : State) (new : PlanEntry) :
    ((switchLane s lane new p).active.entry lane, (switchLane s lane new p).lane lane) =
      switchedLane s lane new (p.active.entry lane) (p.lane lane) := by
  unfold switchLane switchedLane
  dsimp only
  split_ifs
  · rw [PlanStore.lane_setLane p lane lane _ hlane, if_pos rfl]
    rfl
  · rw [PlanStore.lane_setLane p lane lane _ hlane, if_pos rfl]
    rfl
  · rw [Plan.entry_setEntry p.active lane lane _ hentry, if_pos rfl]
    rfl

/-- Over distinct lanes, each lane goes by its own new entry and what it held before. -/
theorem switchLanes_of_mem {new : List (Nat × PlanEntry)} {p : PlanStore} {lane : Nat} {e : PlanEntry} (s : State)
    (hd : (new.map Prod.fst).Nodup) (hin : ∀ x ∈ new, x.1 < p.lanes.length ∧ x.1 < p.active.entries.length)
    (he : (lane, e) ∈ new) :
    ((switchLanes s new p).active.entry lane, (switchLanes s new p).lane lane) =
      switchedLane s lane e (p.active.entry lane) (p.lane lane) := by
  induction new generalizing p with
  | nil => cases he
  | cons x rest ih =>
    obtain ⟨hx, hrest⟩ := List.nodup_cons.mp hd
    rw [switchLanes]
    rcases List.mem_cons.mp he with rfl | he
    · have hne (y : Nat × PlanEntry) (hy : y ∈ rest) : y.1 ≠ lane :=
        fun h => hx (List.mem_map.mpr ⟨y, hy, h⟩)
      obtain ⟨hentry, hlane⟩ := switchLanes_other s rest (switchLane s lane e p) lane hne
      obtain ⟨hl, hr⟩ := hin (lane, e) (List.mem_cons_self ..)
      rw [hentry, hlane, switchLane_same hl hr]
    · have hne : lane ≠ x.1 := fun h => hx (List.mem_map.mpr ⟨_, he, h⟩)
      obtain ⟨hentry, hlane⟩ := switchLane_other s x.1 lane x.2 p hne
      rw [ih hrest (by simpa using fun y hy => hin y (List.mem_cons_of_mem _ hy)) he, hentry, hlane]

theorem mem_of_lookup_eq_some {new : List (Nat × PlanEntry)} {lane : Nat} {e : PlanEntry} (h : new.lookup lane = some e) :
    (lane, e) ∈ new := by
  obtain ⟨before, after, hnew, -⟩ := List.lookup_eq_some_iff.mp h
  rw [hnew]
  exact List.mem_append_right _ (List.mem_cons_self ..)

theorem ne_of_lookup_eq_none {new : List (Nat × PlanEntry)} {lane : Nat} (h : new.lookup lane = none) (x : Nat × PlanEntry)
    (hx : x ∈ new) : x.1 ≠ lane := by
  have := List.lookup_eq_none_iff.mp h x hx
  exact fun e => by simp [e] at this

theorem switchedLane_flags (s : State) (lane : Nat) (new c : PlanEntry) (ls : LaneState) :
    (switchedLane s lane new c ls).2.blocked = ls.blocked ∧ (switchedLane s lane new c ls).2.reported = ls.reported := by
  unfold switchedLane
  split_ifs <;> exact ⟨rfl, rfl⟩

/-- R148, the table, as to the entry in force and the pending entry. -/
theorem switchedLane_table {s : State} {lane : Nat} {new c : PlanEntry} {ls : LaneState} {after : PlanEntry × Option PlanEntry}
    (h : after = ((switchedLane s lane new c ls).1, (switchedLane s lane new c ls).2.pending)) :
    if new = c then after = (c, none)
    else if ls.pending ≠ none ∨ ∃ it ∈ s.intents.open_, ∃ r, s.units.find it.tag = some r ∧ r.lane = lane then
      after = (c, some new)
    else after = (new, none) := by
  have hdefers : (ls.pending.isSome || intentOnLane s lane) = true ↔
      ls.pending ≠ none ∨ ∃ it ∈ s.intents.open_, ∃ r, s.units.find it.tag = some r ∧ r.lane = lane := by
    rw [Bool.or_eq_true, intentOnLane_iff, Option.isSome_iff_ne_none]
  rw [switchedLane] at h
  by_cases hsame : new = c
  · rwa [if_pos hsame] at h ⊢
  rw [if_neg hsame] at h ⊢
  by_cases hdefer : (ls.pending.isSome || intentOnLane s lane) = true
  · rw [if_pos hdefer] at h
    rwa [if_pos (hdefers.mp hdefer)]
  · have hnone : ls.pending = none := not_not.mp fun hne => hdefer (hdefers.mpr (.inl hne))
    rw [if_neg hdefer, hnone] at h
    rwa [if_neg (mt hdefers.mpr hdefer)]

/-- A switch-over sets no lane's BLOCKED flag and no near-full state. -/
theorem switchLanes_flags {new : List (Nat × PlanEntry)} {p : PlanStore} (s : State) (hd : (new.map Prod.fst).Nodup)
    (hin : ∀ x ∈ new, x.1 < p.lanes.length ∧ x.1 < p.active.entries.length) (lane : Nat) :
    ((switchLanes s new p).lane lane).blocked = (p.lane lane).blocked ∧
      ((switchLanes s new p).lane lane).reported = (p.lane lane).reported := by
  cases hl : new.lookup lane with
  | none => rw [(switchLanes_other s new p lane (ne_of_lookup_eq_none hl)).2]; exact ⟨rfl, rfl⟩
  | some e =>
    have h := congrArg Prod.snd (switchLanes_of_mem s hd hin (mem_of_lookup_eq_some hl))
    dsimp only at h
    rw [h]
    exact switchedLane_flags ..

/-! ### What the comparisons of a switch-over post -/

/-- R154: the comparisons change the lanes' own parts and the reports, and nothing else. -/
theorem compareChanged_eq (im : Image) (before : PlanStore) (lanes : List Nat) (s : State) : compareChanged im before lanes s =
    { s with
      plans := { s.plans with lanes := (compareChanged im before lanes s).plans.lanes }
      reports := (compareChanged im before lanes s).reports } := by
  induction lanes generalizing s with
  | nil => rfl
  | cons lane rest ih =>
    rw [compareChanged]
    split_ifs
    · exact ih s
    · rw [ih, compareNearFull_eq]

theorem deferredCount_eq (p : PlanStore) : p.deferredCount = ((p.lanes.map LaneState.pending).filter Option.isSome).length := by
  rw [List.filter_map, List.length_map]
  rfl

theorem map_pending_modify (lanes : List LaneState) (lane : Nat) (b : Bool) :
    (lanes.modify lane fun ls => { ls with reported := b }).map LaneState.pending = lanes.map LaneState.pending := by
  refine List.ext_getElem? fun k => ?_
  rw [List.getElem?_map, List.getElem?_map, List.getElem?_modify]
  cases lanes[k]? with
  | none => rfl
  | some ls => split_ifs <;> rfl

theorem deferredCount_compareNearFull (im : Image) (lane : Nat) (s : State) :
    (compareNearFull im lane s).plans.deferredCount = s.plans.deferredCount := by
  rw [compareNearFull_eq, deferredCount_eq, deferredCount_eq]
  dsimp only
  split_ifs
  · rfl
  · rw [map_pending_modify]

theorem deferredCount_compareChanged (im : Image) (before : PlanStore) (lanes : List Nat) (s : State) :
    (compareChanged im before lanes s).plans.deferredCount = s.plans.deferredCount := by
  induction lanes generalizing s with
  | nil => rfl
  | cons lane rest ih =>
    rw [compareChanged, ih]
    split_ifs
    · rfl
    · exact deferredCount_compareNearFull im lane s

/-- R154: a lane whose threshold is another than before, that is ARMED, and whose free length is below it. -/
def passesBelow (im : Image) (before : PlanStore) (s : State) (lane : Nat) : Bool :=
  decide (threshold im s.plans lane ≠ threshold im before lane ∧ (s.plans.lane lane).reported = false ∧
    freeLength im s.units.records lane < threshold im s.plans lane)

/-- The comparison of one lane leaves what is to be found of another. -/
theorem passesBelow_compareNearFull {s : State} {lane k : Nat} (hk : k ≠ lane) (hin : lane < s.plans.lanes.length) (im : Image)
    (before : PlanStore) : passesBelow im before (compareNearFull im lane s) k = passesBelow im before s k := by
  have hunits : (compareNearFull im lane s).units = s.units := by simp
  rw [passesBelow, passesBelow, (nearlyFull_compareNearFull im lane k s).1, compareNearFull_lane im lane k s hin, if_neg hk, hunits]

/-- A lane whose threshold has changed posts, when compared, exactly where it passes below. -/
theorem reports_compareNearFull_of_changed {s : State} {lane : Nat} {before : PlanStore} {im : Image}
    (h : threshold im s.plans lane ≠ threshold im before lane) : (compareNearFull im lane s).reports =
      if passesBelow im before s lane = true then
        admitted (.laneNearFull lane (freeLength im s.units.records lane)) s.reports
      else s.reports := by
  rw [compareNearFull_eq]
  refine if_congr ?_ rfl rfl
  rw [passesBelow, nearlyFull_eq, decide_eq_true_eq, decide_eq_true_eq]
  exact (and_iff_right h).symm

/-- R154: LANE NEAR FULL of exactly the lanes that pass below, in the order given, each admitted in turn. -/
theorem compareChanged_reports_eq (im : Image) (before : PlanStore) (lanes : List Nat) (s : State) (hd : lanes.Nodup)
    (hl : ∀ l ∈ lanes, l < s.plans.lanes.length) :
    (compareChanged im before lanes s).reports = (lanes.filter (passesBelow im before s)).foldl
      (fun q lane => admitted (.laneNearFull lane (freeLength im s.units.records lane)) q) s.reports := by
  induction lanes generalizing s with
  | nil => rfl
  | cons lane rest ih =>
    obtain ⟨hlane, hrest⟩ := List.nodup_cons.mp hd
    have hin : ∀ l ∈ rest, l < s.plans.lanes.length := fun l h => hl l (List.mem_cons_of_mem _ h)
    rw [compareChanged]
    by_cases ht : threshold im s.plans lane = threshold im before lane
    · have hstays : passesBelow im before s lane = false := decide_eq_false fun h => h.1 ht
      rw [if_pos ht, ih s hrest hin, List.filter_cons_of_neg (by simp [hstays])]
    · have hothers : rest.filter (passesBelow im before (compareNearFull im lane s)) =
          rest.filter (passesBelow im before s) :=
        List.filter_congr fun k hk =>
          passesBelow_compareNearFull (ne_of_mem_of_not_mem hk hlane) (hl lane (List.mem_cons_self ..)) im before
      have hunits : (compareNearFull im lane s).units = s.units := by simp
      rw [if_neg ht, ih _ hrest (by simpa using hin), hothers, hunits, reports_compareNearFull_of_changed ht]
      by_cases hp : passesBelow im before s lane = true
      · rw [if_pos hp, List.filter_cons_of_pos hp, List.foldl_cons]
      · rw [if_neg hp, List.filter_cons_of_neg hp]

/-! ### The switch-over whole -/

theorem switched_eq (new : List (Nat × PlanEntry)) (dflt : Option Nat) (s : State) : switched new dflt s =
    { s with
      plans := { s.plans with
        active := { (switchLanes s new s.plans).active with dflt := dflt.getD s.plans.active.dflt }
        lanes := (switchLanes s new s.plans).lanes
        generation := s.plans.generation + 1 }
      reports := admitted (.planSwitched (s.plans.generation + 1) (switchLanes s new s.plans).deferredCount) s.reports } := by
  simp only [switched, post, switchLanes_plans] <;> rfl

theorem switchOver_eq (im : Image) (new : List (Nat × PlanEntry)) (dflt : Option Nat) (s : State) : switchOver im new dflt s =
    { s with
      plans := { s.plans with
        active := (switchOver im new dflt s).plans.active
        lanes := (switchOver im new dflt s).plans.lanes
        generation := (switchOver im new dflt s).plans.generation }
      reports := (switchOver im new dflt s).reports
      intake := s.intake.map Entry.release } := by
  rw [switchOver, compareChanged_eq, switched_eq]
  rfl

/-- R148: where every lane with a new entry is one of the deck's, a lane ends as its table says, but for its near-full state. -/
theorem switchLanes_lane {new : List (Nat × PlanEntry)} {p : PlanStore} (s : State) (hd : (new.map Prod.fst).Nodup)
    (hin : ∀ x ∈ new, x.1 < p.lanes.length ∧ x.1 < p.active.entries.length) (lane : Nat) {after : PlanEntry × Option PlanEntry}
    (h : after = ((switchLanes s new p).active.entry lane, ((switchLanes s new p).lane lane).pending)) :
    match new.lookup lane with
    | none => after = (p.active.entry lane, (p.lane lane).pending)
    | some n =>
      if n = p.active.entry lane then after = (p.active.entry lane, none)
      else if (p.lane lane).pending ≠ none ∨ ∃ it ∈ s.intents.open_, ∃ r, s.units.find it.tag = some r ∧ r.lane = lane then
        after = (p.active.entry lane, some n)
      else after = (n, none) := by
  cases hl : new.lookup lane with
  | none =>
    obtain ⟨hentry, hlane⟩ := switchLanes_other s new p lane (ne_of_lookup_eq_none hl)
    rw [h, hentry, hlane]
  | some n =>
    have hpair := switchLanes_of_mem s hd hin (mem_of_lookup_eq_some hl)
    obtain ⟨hentry, hlane⟩ := Prod.ext_iff.mp hpair
    dsimp only at hentry hlane
    exact switchedLane_table (h.trans (by rw [hentry, hlane]))

/-- What a switch-over compares, and when: the lanes as the table of R148 leaves them. -/
theorem switchOver_lane {im : Image} {new : List (Nat × PlanEntry)} {s : State} (hcount : im.laneCount ≤ s.plans.lanes.length)
    (dflt : Option Nat) (k : Nat) : (switchOver im new dflt s).plans.lane k =
      if k < im.laneCount ∧ threshold im (switched new dflt s).plans k ≠ threshold im s.plans k then
        { (switchLanes s new s.plans).lane k with reported := nearlyFull im (switched new dflt s) k }
      else (switchLanes s new s.plans).lane k := by
  have hlen : (switched new dflt s).plans.lanes.length = s.plans.lanes.length := by
    rw [switched_eq]
    simp
  have hlane := compareChanged_lane im s.plans (List.range im.laneCount) (switched new dflt s) k List.pairwise_lt_range
    fun l hl => hlen ▸ Nat.lt_of_lt_of_le (List.mem_range.mp hl) hcount
  have hbefore : (switched new dflt s).plans.lane k = (switchLanes s new s.plans).lane k := by
    rw [switched_eq] <;> rfl
  rw [hbefore] at hlane
  exact hlane.trans (if_congr (and_congr_left fun _ => List.mem_range) rfl rfl)

theorem switchOver_active (im : Image) (new : List (Nat × PlanEntry)) (dflt : Option Nat) (s : State) :
    (switchOver im new dflt s).plans.active = (switched new dflt s).plans.active :=
  (compareChanged_plans im s.plans (List.range im.laneCount) (switched new dflt s)).1

/-- R149 steps 1 to 3, in the order posted. -/
theorem switchOver_reports {im : Image} {new : List (Nat × PlanEntry)} {s : State} (hcount : im.laneCount ≤ s.plans.lanes.length)
    (dflt : Option Nat) : (switchOver im new dflt s).reports =
      ((List.range im.laneCount).filter (passesBelow im s.plans (switched new dflt s))).foldl
        (fun q lane => admitted (.laneNearFull lane (freeLength im s.units.records lane)) q)
        (admitted (.planSwitched (s.plans.generation + 1) (switchOver im new dflt s).plans.deferredCount) s.reports) := by
  have hlen : (switched new dflt s).plans.lanes.length = s.plans.lanes.length := by
    rw [switched_eq]
    simp
  have hunits : (switched new dflt s).units = s.units := by simp
  have hcount' : (switchOver im new dflt s).plans.deferredCount = (switchLanes s new s.plans).deferredCount :=
    (deferredCount_compareChanged im s.plans _ (switched new dflt s)).trans (by rw [switched_eq]; rfl)
  have hfirst : (switched new dflt s).reports =
      admitted (.planSwitched (s.plans.generation + 1) (switchLanes s new s.plans).deferredCount) s.reports := by
    rw [switched_eq]
  have h := compareChanged_reports_eq im s.plans (List.range im.laneCount) (switched new dflt s) List.nodup_range
    fun l hl => hlen ▸ Nat.lt_of_lt_of_le (List.mem_range.mp hl) hcount
  rw [hunits, hfirst, ← hcount'] at h
  exact h

/-- Settles O53: the table of R148 lane by lane, then the comparisons of R154 in ascending lane number. -/
theorem switchOverLanes : Obligations.SwitchOverLanes := by
  intro im new dflt s hd hin hcount t passed
  have hunits : (switched new dflt s).units = s.units := by simp
  have hthreshold (k : Nat) : threshold im t.plans k = threshold im (switched new dflt s).plans k :=
    threshold_congr (switchOver_active im new dflt s) im k
  have hfull (k : Nat) : nearlyFull im (switched new dflt s) k =
      decide (freeLength im s.units.records k < threshold im t.plans k) := by
    rw [nearlyFull_eq, hthreshold, hunits]
  have hlane (k : Nat) := switchOver_lane (im := im) (new := new) hcount dflt k
  have hactive : t.plans.active = { (switchLanes s new s.plans).active with dflt := dflt.getD s.plans.active.dflt } :=
    (switchOver_active im new dflt s).trans (by rw [switched_eq])
  refine ⟨fun lane => ?_, fun lane => ?_, congrArg Plan.dflt hactive, ?_, ?_, switchOver_eq im new dflt s⟩
  · have hpending : (t.plans.lane lane).pending = ((switchLanes s new s.plans).lane lane).pending := by
      rw [hlane]
      split_ifs <;> rfl
    exact switchLanes_lane s hd hin lane (by rw [hactive, hpending]; rfl)
  · obtain ⟨hblocked, hreported⟩ := switchLanes_flags s hd hin lane
    rw [← hfull, hlane, hthreshold]
    split_ifs
    · exact ⟨hblocked, rfl⟩
    · exact ⟨hblocked, hreported⟩
  · show (compareChanged im s.plans (List.range im.laneCount) (switched new dflt s)).plans.generation = _
    simp only [compareChanged_plans, switched_eq]
  · have hpassed : passesBelow im s.plans (switched new dflt s) = fun lane => decide (passed lane) := by
      funext k
      have hreported : ((switched new dflt s).plans.lane k).reported = (s.plans.lane k).reported := by
        rw [switched_eq]
        exact (switchLanes_flags s hd hin k).2
      rw [passesBelow, hreported, ← hthreshold, hunits]
    exact (switchOver_reports hcount dflt).trans (by rw [hpassed]; rfl)

end Sys2Proof.Machine
end

section
/-! PROOFS. The selections of the terminal port: what they shift out and take in, and the edges on their lines (R156, R157). -/

namespace Sys2Proof.Machine

open Sys2Proof.Safety

/-! ### Bytes and bits -/

theorem takenIn_byte (b : Byte) (rest : List Bool) : takenIn (msbFirst b ++ rest) = b :: takenIn rest := by
  have h : msbFirst b ++ rest = b.getLsbD 7 :: b.getLsbD 6 :: b.getLsbD 5 :: b.getLsbD 4 :: b.getLsbD 3 :: b.getLsbD 2 ::
    b.getLsbD 1 :: b.getLsbD 0 :: rest := rfl
  rw [h, takenIn]
  exact congrArg (· :: takenIn rest) (byteOfBits_msbFirst b)

theorem takenIn_of_length_lt {rest : List Bool} (h : rest.length < 8) : takenIn rest = [] := by
  unfold takenIn
  split
  · simp at h
    omega
  · rfl

theorem takenIn_bytes (bytes : List Byte) {rest : List Bool} (h : rest.length < 8) :
    takenIn (bytes.flatMap msbFirst ++ rest) = bytes := by
  induction bytes with
  | nil => exact takenIn_of_length_lt h
  | cons b bytes ih => rw [List.flatMap_cons, List.append_assoc, takenIn_byte, ih]

theorem shiftedOutBit_byte (p : Port) (place : Nat) {k : Nat} (hk : k < 8) :
    shiftedOutBit p (8 * place + k) = (shiftedOut p place).map fun b => b.getLsbD (7 - k) := by
  rw [shiftedOutBit, show (8 * place + k) / 8 = place by omega, show (8 * place + k) % 8 = k by omega]

theorem shiftedOut_of_reply {p : Port} {bytes : List Byte} (h : p.dataOut = .reply bytes) (place : Nat) :
    shiftedOut p place = some (if h : place < bytes.length then bytes[place] else 0xFF) := by
  rw [shiftedOut, h]
  refine congrArg some ?_
  split_ifs with hlt
  · exact (List.getElem_eq_getD Config.filler).symm
  · exact List.getD_eq_default _ _ (Nat.le_of_not_lt hlt)

theorem shiftedOut_of_marker {p : Port} (h : p.dataOut = .marker) (place : Nat) : shiftedOut p place = some 0xA5 := by
  rw [shiftedOut, h]

/-! ### Bits clocked in -/

/-- The lines as the terminal drives them to clock bits in, from a clock at rest. -/
theorem sampledIn_of_clocked (bits : List Bool) : sampledIn (clockedIn bits) = bits := by
  cases bits with
  | nil => rfl
  | cons bit rest =>
    calc sampledIn (clockedIn (bit :: rest))
        = sampledIn (⟨false, bit⟩ :: clockedIn (bit :: rest)) := by simp [clockedIn, sampledIn, clockRises]
      _ = bit :: rest := sampledIn_clockedIn (bit :: rest) bit

/-- A moment with the clock low leaves the same bit for the next. -/
theorem dataOutFrom_low (p : Port) (first : Nat) (d : Bool) (m : TerminalMoment) (rest : List TerminalMoment) :
    dataOutFrom p first (⟨false, d⟩ :: m :: rest) = shiftedOutBit p first :: dataOutFrom p first (m :: rest) := by
  simp [dataOutFrom, clockFalls]

/-- Data-out at the rising edge of each bit clocked in, from a bit of the reply on. -/
theorem dataOutFrom_clockedIn (p : Port) (bits : List Bool) (first : Nat) {k : Nat} (hk : k < bits.length) :
    (dataOutFrom p first (clockedIn bits))[3 * k + 1]? = some (shiftedOutBit p (first + k)) := by
  induction bits generalizing first k with
  | nil => cases hk
  | cons bit rest ih =>
    have hclocked : clockedIn (bit :: rest) = ⟨false, bit⟩ :: ⟨true, bit⟩ :: ⟨false, bit⟩ :: clockedIn rest := rfl
    rw [hclocked, dataOutFrom_bit]
    cases k with
    | zero => rfl
    | succ k =>
      cases rest with
      | nil => exact absurd (Nat.lt_of_succ_lt_succ hk) (Nat.not_lt_zero k)
      | cons next rest =>
        have hnext : clockedIn (next :: rest) = ⟨false, next⟩ :: ⟨true, next⟩ :: ⟨false, next⟩ :: clockedIn rest := rfl
        have h := ih (first + 1) (Nat.lt_of_succ_lt_succ hk)
        rw [hnext] at h ⊢
        rw [dataOutFrom_low, show 3 * (k + 1) + 1 = 3 * k + 1 + 3 by omega, List.getElem?_cons_succ, List.getElem?_cons_succ,
          List.getElem?_cons_succ, h, show first + 1 + k = first + (k + 1) by omega]

/-- Settles O12. -/
theorem portSelections : Obligations.PortSelections := by
  refine ⟨fun s hheld => ⟨?_, ?_⟩, fun p bytes place => ⟨fun h => shiftedOut_of_reply h place,
    fun h => shiftedOut_of_marker h place, fun k hk => shiftedOutBit_byte p place hk, fun rest h => takenIn_bytes bytes h⟩,
    fun p moments panel switch => ?_, fun p bits => ?_⟩
  · show execSelectionBegin s = _
    rw [execSelectionBegin, event_of_iff (P := s.port.rdy = true) _ (by simp [hheld])]
    split_ifs <;> rfl
  · show execNotReadySelection s = _
    rw [execNotReadySelection, event_of_iff (P := ¬ s.port.rdy = true) _ (by simp [hheld]), ite_not]
  · intro moment
    refine ⟨sampledIn_eq moments, dataOutFrom_length p 0 moments, fun i hi => ?_, rfl⟩
    rw [dataOutLine, dataOutFrom_getElem? p 0 moments i hi, Nat.zero_add]
  · intro moments
    exact ⟨sampledIn_of_clocked bits, fun k hk => (dataOutFrom_clockedIn p bits 0 hk).trans (by rw [Nat.zero_add])⟩

end Sys2Proof.Machine
end
